-- ==== Sys2Proof/Word.lean ====
section
/-! DEFINITION. The word types of SHA1CE: every value of the datapath is an unsigned 32-bit word
(spec/00_scope.md R7, R8); the host procedure works on bytes. -/

namespace Sys2Proof

/-- A 32-bit unsigned word (R7). `+`, `&&&`, `|||`, `^^^` and `~~~` on it are the spec's
`+` (mod 2^32, R8), `&`, `|`, `^` and `~` (R10). -/
abbrev Word := BitVec 32

/-- A byte of a message, of the host procedure only: SHA1CE itself never sees bytes (R62). -/
abbrev Byte := BitVec 8

end Sys2Proof
end

