-- ==== Sys2Proof/Config.lean ====
section
/-! DEFINITION. The OPEN parameters of the spec (spec/00_scope.md R5; spec/92_eei_decisions.md, "OPEN
parameters"; spec/93_implementation_defined.md I1, I2, I13). None has a body, so nothing can be proved about its
value beyond the constraint the spec states. Log entry 8. -/

namespace Sys2Proof.Config

/-- The window's base address in units of 128 bytes (R60: the base is a multiple of 128). -/
opaque baseIndex : Nat

/-- `SHA1CE_BASE`, the address of the register window (R60, I1). -/
def sha1ceBase : Nat := 128 * baseIndex

/-- One less than the clocks of a round step. -/
opaque extraRoundCycles : Nat

/-- `ROUND_CYCLES`, at least 1; no rule depends on it (R283, R288, I2). -/
def roundCycles : Nat := extraRoundCycles + 1

/-- One less than the clocks of the finalize step. -/
opaque extraFinalCycles : Nat

/-- `FINAL_CYCLES`, at least 1; no rule depends on it (R283, R288, I2). -/
def finalCycles : Nat := extraFinalCycles + 1

/-- The kinds of reset input a platform may have (R270). -/
inductive ResetKind where
  | synchronous
  | asynchronous
deriving DecidableEq, Repr, Inhabited

/-- `RESET_KIND`; the model's one atomic reset step does not depend on it (R270, R272, I13). -/
opaque resetKind : ResetKind

/-- How long the reset input must be held; a platform matter (R270, I13). -/
opaque resetHold : Nat

end Sys2Proof.Config
end

