-- ==== Sys2Proof/Syntax.lean ====
section
/-! DEFINITION. The instructions of SHA1CE as data: one constructor of `Instr` per row of
spec/opcode_table.json, and the three encoded forms of spec/30_encoding.md R80 together with the unencoded STEP
row of FIN. -/

namespace Sys2Proof

/-- The RW bit of a transaction record (R81): 0 reads, 1 writes. -/
inductive Dir where
  | read
  | write
deriving DecidableEq, Repr

/-- The SIZE attribute of a transaction, in bytes (R82). -/
inductive AccessSize where
  | one
  | two
  | four
deriving DecidableEq, Repr

/-- One host transaction: the 40-bit record of R81 and the SIZE attribute of R82. -/
structure Txn where
  record : BitVec 40
  size : AccessSize
deriving DecidableEq, Repr

/-- The registers of the window (spec/10_state.md R30; R83). -/
inductive WindowReg where
  /-- offset 0x00 -/
  | id
  /-- offset 0x04 -/
  | ctrl
  /-- offset 0x08 -/
  | status
  /-- offset 0x0C -/
  | irqen
  /-- offsets 0x10 to 0x20 -/
  | h (i : Fin 5)
  /-- offsets 0x24 to 0x3C, reserved -/
  | rsvd (k : Fin 7)
  /-- offsets 0x40 to 0x7C -/
  | m (j : Fin 16)
deriving DecidableEq, Repr

/-- The instructions: every row of spec/opcode_table.json, in the table's order. -/
inductive Instr where
  /-- RD.ID (R111) -/
  | rdId
  /-- RD.CTRL (R112) -/
  | rdCtrl
  /-- RD.STATUS (R113) -/
  | rdStatus
  /-- RD.IRQEN (R114) -/
  | rdIrqen
  /-- RD.H0 (R115) -/
  | rdH0
  /-- RD.H1 (R115) -/
  | rdH1
  /-- RD.H2 (R115) -/
  | rdH2
  /-- RD.H3 (R115) -/
  | rdH3
  /-- RD.H4 (R115) -/
  | rdH4
  /-- RD.M (R116), `j` = OFF[5:2] -/
  | rdM (j : Fin 16)
  /-- WR.CTRL (R117), `data` is the command word -/
  | wrCtrl (data : Word)
  /-- WR.IRQEN (R123) -/
  | wrIrqen (data : Word)
  /-- WR.H0 (R124) -/
  | wrH0 (data : Word)
  /-- WR.H1 (R124) -/
  | wrH1 (data : Word)
  /-- WR.H2 (R124) -/
  | wrH2 (data : Word)
  /-- WR.H3 (R124) -/
  | wrH3 (data : Word)
  /-- WR.H4 (R124) -/
  | wrH4 (data : Word)
  /-- WR.M (R125), `j` = OFF[5:2] -/
  | wrM (j : Fin 16) (data : Word)
  /-- WR.RO.ID (R126) -/
  | wrRoId (data : Word)
  /-- WR.RO.STATUS (R126) -/
  | wrRoStatus (data : Word)
  /-- ACC.RSVD@0x24 (R127), either RW -/
  | accRsvd24 (dir : Dir) (data : Word)
  /-- ACC.RSVD@0x28 (R127) -/
  | accRsvd28 (dir : Dir) (data : Word)
  /-- ACC.RSVD@0x2C (R127) -/
  | accRsvd2C (dir : Dir) (data : Word)
  /-- ACC.RSVD@0x30 (R127) -/
  | accRsvd30 (dir : Dir) (data : Word)
  /-- ACC.RSVD@0x34 (R127) -/
  | accRsvd34 (dir : Dir) (data : Word)
  /-- ACC.RSVD@0x38 (R127) -/
  | accRsvd38 (dir : Dir) (data : Word)
  /-- ACC.RSVD@0x3C (R127) -/
  | accRsvd3C (dir : Dir) (data : Word)
  /-- NOP (R118), command 0x0 -/
  | nop
  /-- INIT (R119), command 0x1 -/
  | init
  /-- START (R120), command 0x2 -/
  | start
  /-- ABORT (R121), command 0x3 -/
  | abort
  /-- CLRSTAT (R122), command 0x4 -/
  | clrstat
  /-- RND.SEL.K0 (R182), ROM word 0x00 -/
  | rndSelK0
  /-- RND.SEL.K0.X (R183), ROM word 0x10 -/
  | rndSelK0X
  /-- RND.XOR.K1.X (R184), ROM word 0x15 -/
  | rndXorK1X
  /-- RND.MAJ.K2.X (R185), ROM word 0x1A -/
  | rndMajK2X
  /-- RND.XOR.K3.X (R186), ROM word 0x1D -/
  | rndXorK3X
  /-- FIN (R204), the finalize step at T = 80; no encoded form -/
  | fin
deriving DecidableEq, Repr

/-- The words an instruction is written as, one case per format of spec/opcode_table.json (R80). -/
inductive Encoded where
  /-- a 40-bit transaction record with SIZE = 4 (R81) -/
  | txn (record : BitVec 40)
  /-- a 32-bit command word (R84) -/
  | ctrl (word : Word)
  /-- an 8-bit control ROM word (R87) -/
  | rom (word : BitVec 8)
  /-- the 7-bit round counter value that selects the finalize step (R80, R88) -/
  | step (t : BitVec 7)
deriving DecidableEq, Repr

end Sys2Proof
end

