-- ==== Sys2Proof/WellFormed.lean ====
section
/-! DEFINITION. Which instructions are well formed. The types of the operands bound every field but one: an
access to a reserved offset carries both RW and DATA, and a read record must carry DATA = 0 (spec/30_encoding.md
R81). -/

namespace Sys2Proof

/-- R81: "A read record whose DATA is not 0 is ill-formed". -/
def dataFits (dir : Dir) (data : Word) : Bool :=
  match dir with
  | .read => data == 0
  | .write => true

/-- An instruction is well formed when some transaction record, command word, ROM word or T value stands for it. -/
def Instr.wellFormed (i : Instr) : Bool :=
  match i with
  | .accRsvd24 dir data => dataFits dir data
  | .accRsvd28 dir data => dataFits dir data
  | .accRsvd2C dir data => dataFits dir data
  | .accRsvd30 dir data => dataFits dir data
  | .accRsvd34 dir data => dataFits dir data
  | .accRsvd38 dir data => dataFits dir data
  | .accRsvd3C dir data => dataFits dir data
  | .rdId => true
  | .rdCtrl => true
  | .rdStatus => true
  | .rdIrqen => true
  | .rdH0 => true
  | .rdH1 => true
  | .rdH2 => true
  | .rdH3 => true
  | .rdH4 => true
  | .rdM _ => true
  | .wrCtrl _ => true
  | .wrIrqen _ => true
  | .wrH0 _ => true
  | .wrH1 _ => true
  | .wrH2 _ => true
  | .wrH3 _ => true
  | .wrH4 _ => true
  | .wrM _ _ => true
  | .wrRoId _ => true
  | .wrRoStatus _ => true
  | .nop => true
  | .init => true
  | .start => true
  | .abort => true
  | .clrstat => true
  | .rndSelK0 => true
  | .rndSelK0X => true
  | .rndXorK1X => true
  | .rndMajK2X => true
  | .rndXorK3X => true
  | .fin => true

end Sys2Proof
end

