-- ==== Sys2Proof/Decode.lean ====
section
/-! DEFINITION. The decoder of spec/30_encoding.md, total on every record, command word, ROM word and T value,
rejecting by name; after it the encoder, written from the same tables. -/

namespace Sys2Proof

/-- Why a word stands for no instruction. -/
inductive DecodeReject where
  /-- a read record whose DATA is not 0: ill-formed, no hardware event (R81) -/
  | readWithData
  /-- SIZE is not 4: a bus error (R82, R248) -/
  | sizeNotFour
  /-- OFF[1:0] is not 00: a bus error (R83, R248) -/
  | misaligned
  /-- an illegal command word: BADCMD (R86) -/
  | illegalCommand
  /-- a ROM word that is not one of the five of R88 (R91) -/
  | reservedRomWord
  /-- a T value other than 80 selects no finalize step (R80) -/
  | notFinal
deriving DecidableEq, Repr

/-- What decoding answers. -/
inductive Decoded where
  | ok (i : Instr)
  | reject (r : DecodeReject)
deriving DecidableEq, Repr

/-- The instruction, where decoding gives one. -/
def Decoded.instr? (d : Decoded) : Option Instr :=
  match d with
  | .ok i => some i
  | .reject _ => none

/-! ### The fields of a transaction record (R81) -/

/-- Bit 39: 0 = read, 1 = write. -/
def recordDir (r : BitVec 40) : Dir :=
  if r.extractLsb' 39 1 = 1#1 then .write else .read

/-- Bits 38:32: the byte offset in the window. -/
def recordOff (r : BitVec 40) : BitVec 7 := r.extractLsb' 32 7

/-- Bits 31:0: the write data. -/
def recordData (r : BitVec 40) : Word := r.extractLsb' 0 32

/-- A record is well formed unless it is a read whose DATA is not 0 (R81). -/
def wellFormedRecord (r : BitVec 40) : Bool := dataFits (recordDir r) (recordData r)

/-- The register at an aligned offset (R83). `OFF[1:0]` is not looked at here. -/
def windowReg (off : BitVec 7) : WindowReg :=
  let slot := (off.extractLsb' 2 5).toNat
  if slot = 0 then .id
  else if slot = 1 then .ctrl
  else if slot = 2 then .status
  else if slot = 3 then .irqen
  else if hH : slot < 9 then .h ⟨slot - 4, by omega⟩
  else if hR : slot < 16 then .rsvd ⟨slot - 9, by omega⟩
  else .m ⟨(off.extractLsb' 2 4).toNat, (off.extractLsb' 2 4).isLt⟩

/-- The row of an access to the k-th reserved offset (R127). -/
def rsvdInstr (k : Fin 7) (dir : Dir) (data : Word) : Instr :=
  match k with
  | 0 => .accRsvd24 dir data
  | 1 => .accRsvd28 dir data
  | 2 => .accRsvd2C dir data
  | 3 => .accRsvd30 dir data
  | 4 => .accRsvd34 dir data
  | 5 => .accRsvd38 dir data
  | 6 => .accRsvd3C dir data

/-- R95, the case RW = 0. -/
def readInstr (reg : WindowReg) (data : Word) : Instr :=
  match reg with
  | .id => .rdId
  | .ctrl => .rdCtrl
  | .status => .rdStatus
  | .irqen => .rdIrqen
  | .h 0 => .rdH0
  | .h 1 => .rdH1
  | .h 2 => .rdH2
  | .h 3 => .rdH3
  | .h 4 => .rdH4
  | .rsvd k => rsvdInstr k .read data
  | .m j => .rdM j

/-- R95, the case RW = 1. -/
def writeInstr (reg : WindowReg) (data : Word) : Instr :=
  match reg with
  | .id => .wrRoId data
  | .ctrl => .wrCtrl data
  | .status => .wrRoStatus data
  | .irqen => .wrIrqen data
  | .h 0 => .wrH0 data
  | .h 1 => .wrH1 data
  | .h 2 => .wrH2 data
  | .h 3 => .wrH3 data
  | .h 4 => .wrH4 data
  | .rsvd k => rsvdInstr k .write data
  | .m j => .wrM j data

/-- The instruction of an aligned, well-formed access of size 4 (R95). -/
def accessInstr (dir : Dir) (reg : WindowReg) (data : Word) : Instr :=
  match dir with
  | .read => readInstr reg data
  | .write => writeInstr reg data

/-- R95: the decoding of a transaction. An ill-formed record is refused before the bus sees it (R81; log
entry 4); then size and alignment are checked, before everything else (R250). -/
def decodeTxn (r : BitVec 40) (size : AccessSize) : Decoded :=
  if wellFormedRecord r = false then .reject .readWithData
  else if size ≠ .four then .reject .sizeNotFour
  else if (recordOff r).extractLsb' 0 2 ≠ 0#2 then .reject .misaligned
  else .ok (accessInstr (recordDir r) (windowReg (recordOff r)) (recordData r))

/-- R84, R85, R86: the command word written to CTRL. -/
def decodeCommand (w : Word) : Decoded :=
  if w = 0x00000000#32 then .ok .nop
  else if w = 0x00000001#32 then .ok .init
  else if w = 0x00000002#32 then .ok .start
  else if w = 0x00000003#32 then .ok .abort
  else if w = 0x00000004#32 then .ok .clrstat
  else .reject .illegalCommand

/-- R88, R91: the five words of the control ROM. -/
def decodeRom (w : BitVec 8) : Decoded :=
  if w = 0x00#8 then .ok .rndSelK0
  else if w = 0x10#8 then .ok .rndSelK0X
  else if w = 0x15#8 then .ok .rndXorK1X
  else if w = 0x1A#8 then .ok .rndMajK2X
  else if w = 0x1D#8 then .ok .rndXorK3X
  else .reject .reservedRomWord

/-- R80, R88: the finalize step is selected by T = 80. -/
def decodeStep (t : BitVec 7) : Decoded :=
  if t = 80#7 then .ok .fin else .reject .notFinal

/-- Decoding of every encoded form. -/
def decode (e : Encoded) : Decoded :=
  match e with
  | .txn r => decodeTxn r .four
  | .ctrl w => decodeCommand w
  | .rom w => decodeRom w
  | .step t => decodeStep t

/-- The instruction whose row of spec/opcode_table.json has `nbits` bits (a TXN row 40, a CTRL row 32, a ROM row
or the STEP row 8) and whose bits are `w`. The STEP row's 0x50 is no ROM word (its bits 7:5 are not 0), so the two
8-bit kinds of row do not overlap. -/
def decodeTableWord (nbits w : Nat) : Option Instr :=
  if nbits = 40 then (decodeTxn (BitVec.ofNat 40 w) .four).instr?
  else if nbits = 32 then (decodeCommand (BitVec.ofNat 32 w)).instr?
  else if nbits = 8 then
    match decodeRom (BitVec.ofNat 8 w) with
    | .ok i => some i
    | .reject _ => if w = 80 then (decodeStep 80#7).instr? else none
  else none

/-! ### The encoder -/

/-- The RW bit (R81). -/
def dirBit (dir : Dir) : BitVec 1 :=
  match dir with
  | .read => 0#1
  | .write => 1#1

/-- A transaction record from its fields (R81). -/
def mkRecord (dir : Dir) (off : BitVec 7) (data : Word) : BitVec 40 := dirBit dir ++ off ++ data

/-- The offset of H[i] (R30). -/
def hOffset (i : Fin 5) : BitVec 7 := BitVec.ofNat 7 (0x10 + 4 * i.val)

/-- The offset of M[j] (R30). -/
def mOffset (j : Fin 16) : BitVec 7 := BitVec.ofNat 7 (0x40 + 4 * j.val)

/-- The offset of a register of the window (R30). -/
def regOffset (reg : WindowReg) : BitVec 7 :=
  match reg with
  | .id => 0x00#7
  | .ctrl => 0x04#7
  | .status => 0x08#7
  | .irqen => 0x0C#7
  | .h i => hOffset i
  | .rsvd k => BitVec.ofNat 7 (0x24 + 4 * k.val)
  | .m j => mOffset j

/-- The words of an instruction, row by row from spec/opcode_table.json. -/
def encode (i : Instr) : Encoded :=
  match i with
  | .rdId => .txn (mkRecord .read 0x00#7 0)
  | .rdCtrl => .txn (mkRecord .read 0x04#7 0)
  | .rdStatus => .txn (mkRecord .read 0x08#7 0)
  | .rdIrqen => .txn (mkRecord .read 0x0C#7 0)
  | .rdH0 => .txn (mkRecord .read 0x10#7 0)
  | .rdH1 => .txn (mkRecord .read 0x14#7 0)
  | .rdH2 => .txn (mkRecord .read 0x18#7 0)
  | .rdH3 => .txn (mkRecord .read 0x1C#7 0)
  | .rdH4 => .txn (mkRecord .read 0x20#7 0)
  | .rdM j => .txn (mkRecord .read (mOffset j) 0)
  | .wrCtrl data => .txn (mkRecord .write 0x04#7 data)
  | .wrIrqen data => .txn (mkRecord .write 0x0C#7 data)
  | .wrH0 data => .txn (mkRecord .write 0x10#7 data)
  | .wrH1 data => .txn (mkRecord .write 0x14#7 data)
  | .wrH2 data => .txn (mkRecord .write 0x18#7 data)
  | .wrH3 data => .txn (mkRecord .write 0x1C#7 data)
  | .wrH4 data => .txn (mkRecord .write 0x20#7 data)
  | .wrM j data => .txn (mkRecord .write (mOffset j) data)
  | .wrRoId data => .txn (mkRecord .write 0x00#7 data)
  | .wrRoStatus data => .txn (mkRecord .write 0x08#7 data)
  | .accRsvd24 dir data => .txn (mkRecord dir 0x24#7 data)
  | .accRsvd28 dir data => .txn (mkRecord dir 0x28#7 data)
  | .accRsvd2C dir data => .txn (mkRecord dir 0x2C#7 data)
  | .accRsvd30 dir data => .txn (mkRecord dir 0x30#7 data)
  | .accRsvd34 dir data => .txn (mkRecord dir 0x34#7 data)
  | .accRsvd38 dir data => .txn (mkRecord dir 0x38#7 data)
  | .accRsvd3C dir data => .txn (mkRecord dir 0x3C#7 data)
  | .nop => .ctrl 0x00000000#32
  | .init => .ctrl 0x00000001#32
  | .start => .ctrl 0x00000002#32
  | .abort => .ctrl 0x00000003#32
  | .clrstat => .ctrl 0x00000004#32
  | .rndSelK0 => .rom 0x00#8
  | .rndSelK0X => .rom 0x10#8
  | .rndXorK1X => .rom 0x15#8
  | .rndMajK2X => .rom 0x1A#8
  | .rndXorK3X => .rom 0x1D#8
  | .fin => .step 80#7

end Sys2Proof
end

