-- ==== Sys2Proof/Machine/Tables.lean ====
section
/-! DEFINITION. The constants of SHA1CE: the identification word, the initial value of H, the round constants and
the contents of the control ROM. -/

namespace Sys2Proof.Machine

/-- ID, ASCII "SHA1" (spec/10_state.md R31). -/
def idWord : Word := 0x53484131#32

/-- IV, the initial value of H[0..4] (spec/43_accumulators.md R201). -/
def iv : Vector Word 5 := #v[0x67452301#32, 0xEFCDAB89#32, 0x98BADCFE#32, 0x10325476#32, 0xC3D2E1F0#32]

/-- KTAB[KSEL], the round constants (spec/42_round_alu.md R175; spec/30_encoding.md R90). -/
def ktab (ksel : BitVec 2) : Word :=
  match ksel with
  | 0#2 => 0x5A827999#32
  | 1#2 => 0x6ED9EBA1#32
  | 2#2 => 0x8F1BBCDC#32
  | 3#2 => 0xCA62C1D6#32

/-- The words of the control ROM in the order of T (R176): sixteen 0x00, four 0x10, then twenty each of 0x15, 0x1A
and 0x1D. -/
def romWords : List (BitVec 8) :=
  List.replicate 16 0x00#8 ++ List.replicate 4 0x10#8 ++ List.replicate 20 0x15#8 ++ List.replicate 20 0x1A#8
    ++ List.replicate 20 0x1D#8

/-- ROM[0..79], the control ROM's contents (R176). -/
def romTable : Vector (BitVec 8) 80 := ⟨⟨romWords⟩, rfl⟩

end Sys2Proof.Machine
end

