-- ==== Sys2Proof/Machine/State.lean ====
section
/-! DEFINITION. The state of SHA1CE (spec/10_state.md R20 to R45), the reasons a step can stop, and the state after
reset. There is no byte memory: the only address space is the register window (spec/20_memory.md R60 to R62). -/

namespace Sys2Proof.Machine

/-- Something that may happen to the machine in one step (spec/00_scope.md R12). -/
inductive Event where
  /-- the host performs a bus transaction -/
  | host (t : Txn)
  /-- the engine takes its turn: its next micro-operation where one is enabled -/
  | engine
  /-- the platform resets the block (spec/70_reset_and_hazards.md R270) -/
  | reset
deriving DecidableEq, Repr

/-- The bus's answer to a host access. -/
inductive Response where
  /-- no access has been answered yet -/
  | none
  /-- a read returned this value -/
  | value (v : Word)
  /-- a write completed -/
  | written
  /-- the access ended with an error response (spec/60_exceptions.md R242) -/
  | busError (off : BitVec 7)
deriving DecidableEq, Repr

/-- The working registers A to E (R21). -/
structure Work where
  a : Word
  b : Word
  c : Word
  d : Word
  e : Word
deriving DecidableEq, Repr

/-- The machine's state: R20's table, then the model's own two fields (log entries 1 and 2). -/
structure State where
  /-- the working registers A..E (R21) -/
  work : Work
  /-- the round counter T, 0..80 (R22); STATUS.ROUND reads it (R38) -/
  t : BitVec 7
  /-- the message buffer M[0..15] (R24) -/
  m : Vector Word 16
  /-- the word-valid mask WVALID (R25) -/
  wvalid : BitVec 16
  /-- the schedule window W[0..15] (R26) -/
  w : Vector Word 16
  /-- the accumulators H[0..4] (R27) -/
  h : Vector Word 5
  /-- the control ROM ROM[0..79] (R28); nothing writes it -/
  rom : Vector (BitVec 8) 80
  /-- STATUS.BUSY (R34) -/
  busy : Bool
  /-- STATUS.DONE (R35) -/
  done : Bool
  /-- STATUS.ERR (R36) -/
  err : Bool
  /-- STATUS.ERRCODE (R37) -/
  errcode : BitVec 3
  /-- IRQEN.DONE_IE (R40) -/
  doneIe : Bool
  /-- IRQEN.ERR_IE (R40) -/
  errIe : Bool
  /-- the model's own: the bus's answer to the latest host access (log entry 2) -/
  response : Response
  /-- the model's own: what happens next, oldest first (log entry 1) -/
  pending : List Event
deriving DecidableEq, Repr

/-- Why the machine stops with a fault. -/
inductive Fault where
  /-- T is in 81..127 while the engine is busy. Raised by the engine's turn and by the meanings of the rounds and
  FIN. "a model reaching it must fault" (R23; spec/93_implementation_defined.md I3). Safe: no run reaches it. -/
  | roundCounterOutOfRange
deriving DecidableEq, Repr

/-- Why the model gives a step no meaning. -/
inductive Refusal where
  /-- An instruction whose arm of `exec` has no meaning yet. Raised by `exec` alone. Safe. -/
  | notModelled (mnemonic : String)
  /-- The pending transaction is a read record whose DATA is not 0. "The transcriber refuses it. It is not a
  hardware event" (spec/30_encoding.md R81). Raised by the fetch. Safe. -/
  | illFormedRecord
  /-- The control ROM holds, anywhere, a word that is none of the five of R88. "A model that generalises over ROM
  contents must refuse them" (R91), "before any round runs" (spec/93_implementation_defined.md I5). Raised by the fetch
  of every round. Safe: no run meets one. -/
  | reservedRomWord
  /-- A round or FIN applied in a state whose phase does not enable it (R23, R181, R204). Raised by those
  meanings; a step never runs one there (log entry 10). Safe. -/
  | engineNotEnabled
deriving DecidableEq, Repr

/-- The machine right after reset (spec/10_state.md R45): every value is the spec's own. The model's own two
fields are empty. -/
def State.reset : State where
  work := ⟨0, 0, 0, 0, 0⟩
  t := 0
  m := Vector.replicate 16 0
  wvalid := 0
  w := Vector.replicate 16 0
  h := iv
  rom := romTable
  busy := false
  done := false
  err := false
  errcode := 0
  doneIe := false
  errIe := false
  response := .none
  pending := []

end Sys2Proof.Machine
end

