-- ==== Sys2Proof/Machine/Flags.lean ====
section
/-! DEFINITION. The flags of SHA1CE and what is computed from them: the engine's phase, the STATUS and IRQEN read
values and the interrupt output. SHA1CE has no arithmetic flags (spec/10_state.md R43). -/

namespace Sys2Proof.Machine

/-- The engine's phase, derived from BUSY and T (R23). -/
inductive Phase where
  | idle
  | round
  | final
  | unreachable
deriving DecidableEq, Repr

/-- R23. -/
def State.phase (s : State) : Phase :=
  if s.busy = false then .idle
  else if s.t.toNat < 80 then .round
  else if s.t.toNat = 80 then .final
  else .unreachable

/-- The value a read of STATUS returns: WVALID in 31:16, T in 14:8, ERRCODE in 6:4, ERR, DONE and BUSY in 2:0,
the reserved bits 15, 7 and 3 zero (R33, R113; log entry 19). -/
def statusWord (s : State) : Word :=
  s.wvalid ++ 0#1 ++ s.t ++ 0#1 ++ s.errcode ++ 0#1 ++ BitVec.ofBool s.err ++ BitVec.ofBool s.done
    ++ BitVec.ofBool s.busy

/-- The value a read of IRQEN returns: zext_32({ERR_IE, DONE_IE}) (spec/30_encoding.md R92). -/
def irqenWord (s : State) : Word := (BitVec.ofBool s.errIe ++ BitVec.ofBool s.doneIe).zeroExtend 32

/-- The interrupt output, a level (R29, spec/60_exceptions.md R254). -/
def irq (s : State) : Bool := (s.done && s.doneIe) || (s.err && s.errIe)

end Sys2Proof.Machine
end

