-- ==== Sys2Proof/Machine/Operands.lean ====
section
/-! DEFINITION. The operands and the datapath of a round: rotation, the boolean functions, the schedule expander and
the five-term sum (spec/41_schedule_expander.md, spec/42_round_alu.md). -/

namespace Sys2Proof.Machine

/-- `ROTL32(x, n)`, defined only for 0 < n < 32 (spec/00_scope.md R9; spec/93_implementation_defined.md I16). -/
def rotl32 (x : Word) (n : Nat) (_inRange : 0 < n ∧ n < 32 := by decide) : Word :=
  (x <<< n) ||| (x >>> (32 - n))

/-! ### The function unit -/

/-- The three boolean functions (R171 to R173). -/
inductive BoolFn where
  | sel
  | xor
  | maj
deriving DecidableEq, Repr

/-- F_SEL (R171). -/
def fSel (b c d : Word) : Word := (b &&& c) ||| (~~~b &&& d)

/-- F_XOR (R172). -/
def fXor (b c d : Word) : Word := b ^^^ c ^^^ d

/-- F_MAJ (R173). -/
def fMaj (b c d : Word) : Word := (b &&& c) ||| (b &&& d) ||| (c &&& d)

/-- The function unit F(fsel, b, c, d) (R174). -/
def boolFn (f : BoolFn) (b c d : Word) : Word :=
  match f with
  | .sel => fSel b c d
  | .xor => fXor b c d
  | .maj => fMaj b c d

/-! ### The fields of a control ROM word (spec/30_encoding.md R87) -/

/-- EXP, bit 4. -/
def romExp (w : BitVec 8) : Bool := w.getLsbD 4

/-- KSEL, bits 3:2. -/
def romKsel (w : BitVec 8) : BitVec 2 := w.extractLsb' 2 2

/-- FSEL, bits 1:0, as a function (R89); FSEL = 3 is reserved and gives none (R91, R174). -/
def romFsel (w : BitVec 8) : Option BoolFn :=
  match w.extractLsb' 0 2 with
  | 0#2 => some .sel
  | 1#2 => some .xor
  | 2#2 => some .maj
  | 3#2 => none

/-! ### The schedule expander -/

/-- The window slot (t + k) & 15 (R152): k = 0 is the slot of S[t] and S[t-16], 13 of S[t-3], 8 of S[t-8] and 2 of
S[t-14]. -/
def tapSlot (t : BitVec 7) (k : Nat) : Fin 16 := ⟨(t.toNat + k) % 16, Nat.mod_lt _ (by decide)⟩

/-- The word the expander forms in round t: ROTL32 by 1 of the XOR of the four taps, all read before the write
(R152). -/
def expandWord (t : BitVec 7) (w : Vector Word 16) : Word :=
  rotl32 (w[tapSlot t 13] ^^^ w[tapSlot t 8] ^^^ w[tapSlot t 2] ^^^ w[tapSlot t 0]) 1

/-- The window after the expander's part of round t: one slot written where EXP = 1 (R152). -/
def schedWindow (exp : Bool) (t : BitVec 7) (w : Vector Word 16) : Vector Word 16 :=
  if exp then w.set (tapSlot t 0) (expandWord t w) else w

/-- `sched_word(t)`: the word the round adds, slot t mod 16 after any write (R152). -/
def schedWord (exp : Bool) (t : BitVec 7) (w : Vector Word 16) : Word :=
  (schedWindow exp t w)[tapSlot t 0]

/-! ### The modular-add datapath -/

/-- The round sum `temp` (R178), mod 2^32. -/
def roundSum (f : BoolFn) (k wt : Word) (q : Work) : Word :=
  rotl32 q.a 5 + boolFn f q.b q.c q.d + q.e + k + wt

/-- The simultaneous update of A..E (R180). -/
def roundWork (f : BoolFn) (k wt : Word) (q : Work) : Work :=
  ⟨roundSum f k wt q, q.a, rotl32 q.b 30, q.c, q.d⟩

end Sys2Proof.Machine
end

