-- ==== Sys2Proof/Machine/Ops.lean ====
section
/-! DEFINITION. The named operations the meanings share: answering the bus, recording an error, the register file
operations, and the enabling of the engine's micro-operations. -/

namespace Sys2Proof.Machine

/-! ### The bus's answers (log entry 2) -/

/-- A read completes with a value; it changes nothing else (spec/20_memory.md R66). -/
def answerRead (v : Word) (s : State) : State := { s with response := .value v }

/-- A write transaction completes normally. -/
def acknowledge (s : State) : State := { s with response := .written }

/-- `raise BusError(off)`: the access ends with an error response, and no register changes
(spec/60_exceptions.md R242; log entry 3). -/
def busError (off : BitVec 7) (s : State) : State := { s with response := .busError off }

/-! ### Command errors: the one exception the machine records, and the return from it -/

/-- The command errors (R243). -/
inductive CommandError where
  | badCmd
  | busy
  | incomplete
deriving DecidableEq, Repr

/-- The error's code in STATUS.ERRCODE (R243). -/
def CommandError.code (e : CommandError) : BitVec 3 :=
  match e with
  | .badCmd => 1#3
  | .busy => 2#3
  | .incomplete => 3#3

/-- `record_error(code)` (R241): the first error since ERR was 0 is kept; nothing else changes. -/
def recordError (e : CommandError) (s : State) : State :=
  if s.err = false then { s with err := true, errcode := e.code } else s

/-- Clearing the recorded error and DONE, the nearest thing to a return from a trap (spec/40_host_commands.md R122,
R130; R253). -/
def clearStatus (s : State) : State := { s with err := false, errcode := 0, done := false }

/-! ### Register file operations -/

/-- `load_window()` (spec/41_schedule_expander.md R151). -/
def loadWindow (s : State) : State := { s with w := s.m }

/-- `load_work()` (spec/43_accumulators.md R202). -/
def loadWork (s : State) : State := { s with work := ⟨s.h[0], s.h[1], s.h[2], s.h[3], s.h[4]⟩ }

/-- Loading the IV into H (R201). -/
def loadIv (s : State) : State := { s with h := iv }

/-- A host write to H[i]: refused with BUSY while busy, a plain store when idle (spec/40_host_commands.md R124). -/
def writeH (i : Fin 5) (v : Word) (s : State) : State :=
  if s.busy then recordError .busy s else { s with h := s.h.set i v }

/-- A host write to M[j], which also sets WVALID[j] (R125). -/
def writeM (j : Fin 16) (v : Word) (s : State) : State :=
  { s with m := s.m.set j v, wvalid := s.wvalid ||| BitVec.twoPow 16 j.val }

/-- A host write to IRQEN: DATA[1:0] stored, DATA[31:2] ignored (R123). -/
def writeIrqen (v : Word) (s : State) : State := { s with doneIe := v.getLsbD 0, errIe := v.getLsbD 1 }

/-- Component-wise addition mod 2^32 of the working registers into H (R204). -/
def addWork (h : Vector Word 5) (q : Work) : Vector Word 5 :=
  #v[h[0] + q.a, h[1] + q.b, h[2] + q.c, h[3] + q.d, h[4] + q.e]

/-! ### The register window as a whole -/

/-- `MemRead(off, 4)` of a register of the window (R60, R30): what a read of it returns; none where a read gets a
bus error. -/
def memRead (reg : WindowReg) (s : State) : Option Word :=
  match reg with
  | .id => some idWord
  | .ctrl => some 0
  | .status => some (statusWord s)
  | .irqen => some (irqenWord s)
  | .h i => some s.h[i]
  | .rsvd _ => none
  | .m j => some s.m[j]

/-- The effective address of an access: `SHA1CE_BASE + OFF` (R129). -/
def effectiveAddress (off : BitVec 7) : Nat := Config.sha1ceBase + off.toNat

/-! ### Enabling a micro-operation -/

/-- A micro-operation of phase `p` takes effect in that phase only. T in 81..127 while busy is a broken invariant
and faults (R23, I3); in another phase the micro-operation is not enabled (R181, R204; log entry 10). -/
def whenPhase (p : Phase) (effect : State → State) (s : State) : Host.Outcome State Fault Refusal :=
  if s.phase = p then .next (effect s)
  else if s.phase = .unreachable then .fault .roundCounterOutOfRange
  else .refused .engineNotEnabled

end Sys2Proof.Machine
end

