-- ==== Sys2Proof/Machine/BusErrors.lean ====
section
/-! DEFINITION. The meanings of the accesses whose effect is a bus error: WR.RO.ID, WR.RO.STATUS and ACC.RSVD
(spec/40_host_commands.md R126, R127). The machine goes on: the next state is unchanged but for the response
(spec/60_exceptions.md R242, R252; log entry 3). -/

namespace Sys2Proof.Machine

/-- WR.RO.ID (R126): DATA is ignored. -/
def execWrRoId (_data : Word) (s : State) : Host.Outcome State Fault Refusal := .next (busError 0x00#7 s)

/-- WR.RO.STATUS (R126): DATA is ignored; STATUS cannot be cleared by writing it. -/
def execWrRoStatus (_data : Word) (s : State) : Host.Outcome State Fault Refusal := .next (busError 0x08#7 s)

/-- ACC.RSVD@0x24 (R127), a read or a write. -/
def execAccRsvd24 (_dir : Dir) (_data : Word) (s : State) : Host.Outcome State Fault Refusal :=
  .next (busError 0x24#7 s)

/-- ACC.RSVD@0x28 (R127). -/
def execAccRsvd28 (_dir : Dir) (_data : Word) (s : State) : Host.Outcome State Fault Refusal :=
  .next (busError 0x28#7 s)

/-- ACC.RSVD@0x2C (R127). -/
def execAccRsvd2C (_dir : Dir) (_data : Word) (s : State) : Host.Outcome State Fault Refusal :=
  .next (busError 0x2C#7 s)

/-- ACC.RSVD@0x30 (R127). -/
def execAccRsvd30 (_dir : Dir) (_data : Word) (s : State) : Host.Outcome State Fault Refusal :=
  .next (busError 0x30#7 s)

/-- ACC.RSVD@0x34 (R127). -/
def execAccRsvd34 (_dir : Dir) (_data : Word) (s : State) : Host.Outcome State Fault Refusal :=
  .next (busError 0x34#7 s)

/-- ACC.RSVD@0x38 (R127). -/
def execAccRsvd38 (_dir : Dir) (_data : Word) (s : State) : Host.Outcome State Fault Refusal :=
  .next (busError 0x38#7 s)

/-- ACC.RSVD@0x3C (R127). -/
def execAccRsvd3C (_dir : Dir) (_data : Word) (s : State) : Host.Outcome State Fault Refusal :=
  .next (busError 0x3C#7 s)

end Sys2Proof.Machine
end

