-- ==== Sys2Proof/Machine/Finalize.lean ====
section
/-! DEFINITION. The meaning of FIN, the finalize step (spec/43_accumulators.md R204). -/

namespace Sys2Proof.Machine

/-- The effect of FIN: A..E added into H at one point, BUSY <- 0, DONE <- 1; T, A..E and W are kept (R204; spec/20_memory.md
R65). -/
def finalize (s : State) : State :=
  { s with h := addWork s.h s.work, busy := false, done := true }

/-- FIN (R204), enabled when BUSY = 1 and T = 80. -/
def execFin (s : State) : Host.Outcome State Fault Refusal := whenPhase .final finalize s

end Sys2Proof.Machine
end

