-- ==== Sys2Proof/Machine/HostReads.lean ====
section
/-! DEFINITION. The meanings of the reads RD.* (spec/40_host_commands.md R111 to R116). A read has no side effect
(spec/20_memory.md R66): it only answers. -/

namespace Sys2Proof.Machine

/-- RD.ID (R111). -/
def execRdId (s : State) : Host.Outcome State Fault Refusal := .next (answerRead idWord s)

/-- RD.CTRL (R112): it never returns the last command written. -/
def execRdCtrl (s : State) : Host.Outcome State Fault Refusal := .next (answerRead 0 s)

/-- RD.STATUS (R113). -/
def execRdStatus (s : State) : Host.Outcome State Fault Refusal := .next (answerRead (statusWord s) s)

/-- RD.IRQEN (R114). -/
def execRdIrqen (s : State) : Host.Outcome State Fault Refusal := .next (answerRead (irqenWord s) s)

/-- RD.H0 (R115), i = 0. -/
def execRdH0 (s : State) : Host.Outcome State Fault Refusal := .next (answerRead s.h[0] s)

/-- RD.H1 (R115), i = 1. -/
def execRdH1 (s : State) : Host.Outcome State Fault Refusal := .next (answerRead s.h[1] s)

/-- RD.H2 (R115), i = 2. -/
def execRdH2 (s : State) : Host.Outcome State Fault Refusal := .next (answerRead s.h[2] s)

/-- RD.H3 (R115), i = 3. -/
def execRdH3 (s : State) : Host.Outcome State Fault Refusal := .next (answerRead s.h[3] s)

/-- RD.H4 (R115), i = 4. -/
def execRdH4 (s : State) : Host.Outcome State Fault Refusal := .next (answerRead s.h[4] s)

/-- RD.M (R116): WVALID is unchanged. -/
def execRdM (j : Fin 16) (s : State) : Host.Outcome State Fault Refusal := .next (answerRead s.m[j] s)

end Sys2Proof.Machine
end

