-- ==== Sys2Proof/Machine/Commands.lean ====
section
/-! DEFINITION. The meanings of the commands NOP, INIT, START, ABORT and CLRSTAT (spec/40_host_commands.md R118 to
R122). A command is performed by the write to CTRL that carries its word, so each meaning also completes that write,
refused or not (spec/60_exceptions.md R240; log entry 9). -/

namespace Sys2Proof.Machine

/-- NOP (R118): nothing. -/
def execNop (s : State) : Host.Outcome State Fault Refusal := .next (acknowledge s)

/-- INIT (R119): refused with BUSY while busy; else H <- IV, T <- 0, DONE <- 0. -/
def execInit (s : State) : Host.Outcome State Fault Refusal :=
  .next (acknowledge
    (if s.busy then recordError .busy s
     else { loadIv s with t := 0, done := false }))

/-- START (R120): BUSY before INCOMPLETE (spec/60_exceptions.md R249); accepted, it snapshots M into W and H into
A..E and sets the engine going. -/
def execStart (s : State) : Host.Outcome State Fault Refusal :=
  .next (acknowledge
    (if s.busy then recordError .busy s
     else if s.wvalid ≠ 0xFFFF#16 then recordError .incomplete s
     else { loadWork (loadWindow s) with t := 0, wvalid := 0, done := false, busy := true }))

/-- ABORT (R121): accepted in every state; H, M, WVALID, W and A..E are kept. -/
def execAbort (s : State) : Host.Outcome State Fault Refusal :=
  .next (acknowledge { s with busy := false, done := false, t := 0 })

/-- CLRSTAT (R122): accepted in every state; BUSY, T and WVALID are kept. -/
def execClrstat (s : State) : Host.Outcome State Fault Refusal := .next (acknowledge (clearStatus s))

end Sys2Proof.Machine
end

