-- ==== Sys2Proof/Machine/HostWrites.lean ====
section
/-! DEFINITION. The meanings of the writes WR.CTRL, WR.IRQEN, WR.H0 to WR.H4 and WR.M (spec/40_host_commands.md R117,
R123 to R125). -/

namespace Sys2Proof.Machine

/-- WR.CTRL (R117): an illegal command word records BADCMD and does nothing else (spec/30_encoding.md R86), before any
other check (spec/60_exceptions.md R249); a legal one performs its command. -/
def execWrCtrl (data : Word) (s : State) : Host.Outcome State Fault Refusal :=
  if data.extractLsb' 4 28 ≠ 0#28 ∨ 5 ≤ (data.extractLsb' 0 4).toNat then
    .next (acknowledge (recordError .badCmd s))
  else if data.extractLsb' 0 4 = 0x0#4 then execNop s
  else if data.extractLsb' 0 4 = 0x1#4 then execInit s
  else if data.extractLsb' 0 4 = 0x2#4 then execStart s
  else if data.extractLsb' 0 4 = 0x3#4 then execAbort s
  else execClrstat s

/-- WR.IRQEN (R123). -/
def execWrIrqen (data : Word) (s : State) : Host.Outcome State Fault Refusal :=
  .next (acknowledge (writeIrqen data s))

/-- WR.H0 (R124), i = 0. -/
def execWrH0 (data : Word) (s : State) : Host.Outcome State Fault Refusal := .next (acknowledge (writeH 0 data s))

/-- WR.H1 (R124), i = 1. -/
def execWrH1 (data : Word) (s : State) : Host.Outcome State Fault Refusal := .next (acknowledge (writeH 1 data s))

/-- WR.H2 (R124), i = 2. -/
def execWrH2 (data : Word) (s : State) : Host.Outcome State Fault Refusal := .next (acknowledge (writeH 2 data s))

/-- WR.H3 (R124), i = 3. -/
def execWrH3 (data : Word) (s : State) : Host.Outcome State Fault Refusal := .next (acknowledge (writeH 3 data s))

/-- WR.H4 (R124), i = 4. -/
def execWrH4 (data : Word) (s : State) : Host.Outcome State Fault Refusal := .next (acknowledge (writeH 4 data s))

/-- WR.M (R125): accepted in every state, busy too. -/
def execWrM (j : Fin 16) (data : Word) (s : State) : Host.Outcome State Fault Refusal :=
  .next (acknowledge (writeM j data s))

end Sys2Proof.Machine
end

