-- ==== Sys2Proof/Machine/Rounds.lean ====
section
/-! DEFINITION. The meanings of the five round micro-operations (spec/42_round_alu.md R181 to R186). Each is the round
step of R181 for one ROM word; a round raises nothing and sets no flag (R187). -/

namespace Sys2Proof.Machine

/-- `round_step()` (R181) for a ROM word with the fields EXP, KSEL and FSEL: the expander first, then the sum and
the simultaneous update, then T + 1. -/
def roundStep (exp : Bool) (ksel : BitVec 2) (f : BoolFn) (s : State) : State :=
  { s with
    w := schedWindow exp s.t s.w
    work := roundWork f (ktab ksel) (schedWord exp s.t s.w) s.work
    t := s.t + 1 }

/-- RND.SEL.K0 (R182), ROM word 0x00. -/
def execRndSelK0 (s : State) : Host.Outcome State Fault Refusal := whenPhase .round (roundStep false 0#2 .sel) s

/-- RND.SEL.K0.X (R183), ROM word 0x10. -/
def execRndSelK0X (s : State) : Host.Outcome State Fault Refusal := whenPhase .round (roundStep true 0#2 .sel) s

/-- RND.XOR.K1.X (R184), ROM word 0x15. -/
def execRndXorK1X (s : State) : Host.Outcome State Fault Refusal := whenPhase .round (roundStep true 1#2 .xor) s

/-- RND.MAJ.K2.X (R185), ROM word 0x1A. -/
def execRndMajK2X (s : State) : Host.Outcome State Fault Refusal := whenPhase .round (roundStep true 2#2 .maj) s

/-- RND.XOR.K3.X (R186), ROM word 0x1D. -/
def execRndXorK3X (s : State) : Host.Outcome State Fault Refusal := whenPhase .round (roundStep true 3#2 .xor) s

end Sys2Proof.Machine
end

