-- ==== Sys2Proof/Machine/Dispatch.lean ====
section
/-! DEFINITION. One arm per instruction, each one call of its meaning. -/

namespace Sys2Proof.Machine

def exec (i : Instr) (s : State) : Host.Outcome State Fault Refusal :=
  match i with
  | .rdId => Sys2Proof.Machine.execRdId s
  | .rdCtrl => Sys2Proof.Machine.execRdCtrl s
  | .rdStatus => Sys2Proof.Machine.execRdStatus s
  | .rdIrqen => Sys2Proof.Machine.execRdIrqen s
  | .rdH0 => Sys2Proof.Machine.execRdH0 s
  | .rdH1 => Sys2Proof.Machine.execRdH1 s
  | .rdH2 => Sys2Proof.Machine.execRdH2 s
  | .rdH3 => Sys2Proof.Machine.execRdH3 s
  | .rdH4 => Sys2Proof.Machine.execRdH4 s
  | .rdM j => Sys2Proof.Machine.execRdM j s
  | .wrCtrl data => Sys2Proof.Machine.execWrCtrl data s
  | .wrIrqen data => Sys2Proof.Machine.execWrIrqen data s
  | .wrH0 data => Sys2Proof.Machine.execWrH0 data s
  | .wrH1 data => Sys2Proof.Machine.execWrH1 data s
  | .wrH2 data => Sys2Proof.Machine.execWrH2 data s
  | .wrH3 data => Sys2Proof.Machine.execWrH3 data s
  | .wrH4 data => Sys2Proof.Machine.execWrH4 data s
  | .wrM j data => Sys2Proof.Machine.execWrM j data s
  | .wrRoId data => Sys2Proof.Machine.execWrRoId data s
  | .wrRoStatus data => Sys2Proof.Machine.execWrRoStatus data s
  | .accRsvd24 dir data => Sys2Proof.Machine.execAccRsvd24 dir data s
  | .accRsvd28 dir data => Sys2Proof.Machine.execAccRsvd28 dir data s
  | .accRsvd2C dir data => Sys2Proof.Machine.execAccRsvd2C dir data s
  | .accRsvd30 dir data => Sys2Proof.Machine.execAccRsvd30 dir data s
  | .accRsvd34 dir data => Sys2Proof.Machine.execAccRsvd34 dir data s
  | .accRsvd38 dir data => Sys2Proof.Machine.execAccRsvd38 dir data s
  | .accRsvd3C dir data => Sys2Proof.Machine.execAccRsvd3C dir data s
  | .nop => Sys2Proof.Machine.execNop s
  | .init => Sys2Proof.Machine.execInit s
  | .start => Sys2Proof.Machine.execStart s
  | .abort => Sys2Proof.Machine.execAbort s
  | .clrstat => Sys2Proof.Machine.execClrstat s
  | .rndSelK0 => Sys2Proof.Machine.execRndSelK0 s
  | .rndSelK0X => Sys2Proof.Machine.execRndSelK0X s
  | .rndXorK1X => Sys2Proof.Machine.execRndXorK1X s
  | .rndMajK2X => Sys2Proof.Machine.execRndMajK2X s
  | .rndXorK3X => Sys2Proof.Machine.execRndXorK3X s
  | .fin => Sys2Proof.Machine.execFin s

end Sys2Proof.Machine
end

