-- ==== Sys2Proof/Machine/Fetch.lean ====
section
/-! DEFINITION. What the machine does next: the head of the pending events selects the host's transaction, the
engine's turn or a reset (spec/00_scope.md R12; log entry 1). Step.lean only runs what is selected here. -/

namespace Sys2Proof.Machine

/-- What a step is to do. -/
inductive Fetched where
  /-- run this instruction from this state -/
  | run (i : Instr) (s : State)
  /-- no instruction runs, and this is the next state -/
  | settled (s : State)
  /-- the machine stops with a fault -/
  | broken (r : Fault)
  /-- the model refuses the step -/
  | refuse (r : Refusal)
deriving DecidableEq, Repr

/-- ROM[T] while T < 80; past the ROM's end a word that decodes to nothing. -/
def romWord (s : State) : BitVec 8 :=
  if inRom : s.t.toNat < 80 then s.rom[s.t.toNat] else 0xFF#8

/-- Every word of the control ROM is one of the five of R88: none is reserved (R91). -/
def romLegal (rom : Vector (BitVec 8) 80) : Bool := rom.toList.all fun w => (decodeRom w).instr?.isSome

/-- The engine's turn (R23, R181, R204): round T in phase ROUND, FIN in phase FINAL, nothing while idle (R189, R262;
log entry 11). A control ROM that holds a reserved word anywhere is refused before any round runs (R91;
spec/93_implementation_defined.md I5; log entry 5). -/
def fetchMicroOp (s : State) : Fetched :=
  match s.phase with
  | .idle => .settled s
  | .round =>
    if romLegal s.rom then
      match decodeRom (romWord s) with
      | .ok i => .run i s
      | .reject _ => .refuse .reservedRomWord
    else .refuse .reservedRomWord
  | .final =>
    match decodeStep s.t with
    | .ok i => .run i s
    | .reject _ => .broken .roundCounterOutOfRange
  | .unreachable => .broken .roundCounterOutOfRange

/-- The host's transaction (R95): decoded, or a bus error for a wrong size or a misaligned offset (R248), or refused
where the record is ill-formed (R81; log entry 4). `decodeTxn` rejects for these three reasons only. -/
def fetchTxn (t : Txn) (s : State) : Fetched :=
  match decodeTxn t.record t.size with
  | .ok i => .run i s
  | .reject .sizeNotFour => .settled (busError (recordOff t.record) s)
  | .reject .misaligned => .settled (busError (recordOff t.record) s)
  | .reject .readWithData | .reject .illegalCommand | .reject .reservedRomWord | .reject .notFinal =>
    .refuse .illFormedRecord

/-- The reset step (spec/70_reset_and_hazards.md R270): every piece of state to its reset value; the ROM is not
affected; the events still to come and the last answer on the bus are not the block's (log entries 1 and 2). -/
def resetStep (s : State) : State :=
  { State.reset with rom := s.rom, response := s.response, pending := s.pending }

/-- The next thing to do. With no event pending the engine takes its turn: the host is silent, and the engine goes on
(spec/70_reset_and_hazards.md R283; log entry 1). -/
def fetch (s : State) : Fetched :=
  match s.pending with
  | [] => fetchMicroOp s
  | .engine :: rest => fetchMicroOp { s with pending := rest }
  | .reset :: rest => .settled (resetStep { s with pending := rest })
  | .host t :: rest => fetchTxn t { s with pending := rest }

/-- A control ROM word put where the engine's next turn fetches it. -/
def placeRomWord (word : BitVec 8) (s : State) : State :=
  if inRom : s.t.toNat < 80 then
    { s with rom := s.rom.set s.t.toNat word, busy := true, pending := .engine :: s.pending }
  else { s with t := 0, rom := s.rom.set 0 word, busy := true, pending := .engine :: s.pending }

/-- The instruction of a table row put where the next step finds it (log entry 7): a TXN row is the host's next
transaction, a CTRL row the word of its next write to CTRL, a ROM row the ROM word of the round to run, and the STEP
row the counter value T = 80 of a busy engine. -/
def placeWord (nbits w : Nat) (s : State) : State :=
  if nbits = 40 then { s with pending := .host ⟨BitVec.ofNat 40 w, .four⟩ :: s.pending }
  else if nbits = 32 then
    { s with pending := .host ⟨mkRecord .write 0x04#7 (BitVec.ofNat 32 w), .four⟩ :: s.pending }
  else if w = 80 then { s with t := 80, busy := true, pending := .engine :: s.pending }
  else placeRomWord (BitVec.ofNat 8 w) s

end Sys2Proof.Machine
end

