-- ==== Sys2Proof/Machine/Step.lean ====
section
/-! DEFINITION. One step of the machine: fetch what comes next, run it (spec/00_scope.md R12, R14). -/

namespace Sys2Proof.Machine

/-- One step: of the host, of the engine or of the reset input. -/
def step (s : State) : Host.Outcome State Fault Refusal :=
  match fetch s with
  | .run i s' => exec i s'
  | .settled s' => .next s'
  | .broken r => .fault r
  | .refuse r => .refused r

/-- The state with one instruction of the opcode table placed where the next step fetches it (log entry 7). -/
def State.withFetchWord (s : State) (nbits w : Nat) : State := placeWord nbits w s

end Sys2Proof.Machine
end

