-- ==== Sys2Proof/Machine/OpcodeTable.lean ====
section
/-! DEFINITION. spec/opcode_table.json as data: for each instruction its row's format, match and mask. The decoder and
the encoder are written from spec/30_encoding.md; that they agree with the table is a claim. -/

namespace Sys2Proof

/-- The formats of the opcode table (spec/30_encoding.md R80). -/
inductive RowFormat where
  | txn
  | ctrl
  | rom
  | step
deriving DecidableEq, Repr

/-- A row: a word of the row's format, widened to 40 bits, belongs to it when its bits under `mask` are `bits`. -/
structure OpcodeRow where
  format : RowFormat
  bits : BitVec 40
  mask : BitVec 40
deriving DecidableEq, Repr

/-- The format of an encoded form. -/
def Encoded.format (e : Encoded) : RowFormat :=
  match e with
  | .txn _ => .txn
  | .ctrl _ => .ctrl
  | .rom _ => .rom
  | .step _ => .step

/-- The bits of an encoded form, widened to 40 bits. -/
def Encoded.bits (e : Encoded) : BitVec 40 :=
  match e with
  | .txn r => r
  | .ctrl w => w.setWidth 40
  | .rom w => w.setWidth 40
  | .step t => t.setWidth 40

/-- An encoded form belongs to a row. -/
def OpcodeRow.matchesWord (row : OpcodeRow) (e : Encoded) : Bool :=
  e.format == row.format && e.bits &&& row.mask == row.bits

/-- The row of each instruction. -/
def opcodeRow (i : Instr) : OpcodeRow :=
  match i with
  | .rdId => ⟨.txn, 0x0000000000#40, 0xFFFFFFFFFF#40⟩
  | .rdCtrl => ⟨.txn, 0x0400000000#40, 0xFFFFFFFFFF#40⟩
  | .rdStatus => ⟨.txn, 0x0800000000#40, 0xFFFFFFFFFF#40⟩
  | .rdIrqen => ⟨.txn, 0x0C00000000#40, 0xFFFFFFFFFF#40⟩
  | .rdH0 => ⟨.txn, 0x1000000000#40, 0xFFFFFFFFFF#40⟩
  | .rdH1 => ⟨.txn, 0x1400000000#40, 0xFFFFFFFFFF#40⟩
  | .rdH2 => ⟨.txn, 0x1800000000#40, 0xFFFFFFFFFF#40⟩
  | .rdH3 => ⟨.txn, 0x1C00000000#40, 0xFFFFFFFFFF#40⟩
  | .rdH4 => ⟨.txn, 0x2000000000#40, 0xFFFFFFFFFF#40⟩
  | .rdM _ => ⟨.txn, 0x4000000000#40, 0xC3FFFFFFFF#40⟩
  | .wrCtrl _ => ⟨.txn, 0x8400000000#40, 0xFF00000000#40⟩
  | .wrIrqen _ => ⟨.txn, 0x8C00000000#40, 0xFF00000000#40⟩
  | .wrH0 _ => ⟨.txn, 0x9000000000#40, 0xFF00000000#40⟩
  | .wrH1 _ => ⟨.txn, 0x9400000000#40, 0xFF00000000#40⟩
  | .wrH2 _ => ⟨.txn, 0x9800000000#40, 0xFF00000000#40⟩
  | .wrH3 _ => ⟨.txn, 0x9C00000000#40, 0xFF00000000#40⟩
  | .wrH4 _ => ⟨.txn, 0xA000000000#40, 0xFF00000000#40⟩
  | .wrM _ _ => ⟨.txn, 0xC000000000#40, 0xC300000000#40⟩
  | .wrRoId _ => ⟨.txn, 0x8000000000#40, 0xFF00000000#40⟩
  | .wrRoStatus _ => ⟨.txn, 0x8800000000#40, 0xFF00000000#40⟩
  | .accRsvd24 _ _ => ⟨.txn, 0x2400000000#40, 0x7F00000000#40⟩
  | .accRsvd28 _ _ => ⟨.txn, 0x2800000000#40, 0x7F00000000#40⟩
  | .accRsvd2C _ _ => ⟨.txn, 0x2C00000000#40, 0x7F00000000#40⟩
  | .accRsvd30 _ _ => ⟨.txn, 0x3000000000#40, 0x7F00000000#40⟩
  | .accRsvd34 _ _ => ⟨.txn, 0x3400000000#40, 0x7F00000000#40⟩
  | .accRsvd38 _ _ => ⟨.txn, 0x3800000000#40, 0x7F00000000#40⟩
  | .accRsvd3C _ _ => ⟨.txn, 0x3C00000000#40, 0x7F00000000#40⟩
  | .nop => ⟨.ctrl, 0x0000000000#40, 0x00FFFFFFFF#40⟩
  | .init => ⟨.ctrl, 0x0000000001#40, 0x00FFFFFFFF#40⟩
  | .start => ⟨.ctrl, 0x0000000002#40, 0x00FFFFFFFF#40⟩
  | .abort => ⟨.ctrl, 0x0000000003#40, 0x00FFFFFFFF#40⟩
  | .clrstat => ⟨.ctrl, 0x0000000004#40, 0x00FFFFFFFF#40⟩
  | .rndSelK0 => ⟨.rom, 0x0000000000#40, 0x00000000FF#40⟩
  | .rndSelK0X => ⟨.rom, 0x0000000010#40, 0x00000000FF#40⟩
  | .rndXorK1X => ⟨.rom, 0x0000000015#40, 0x00000000FF#40⟩
  | .rndMajK2X => ⟨.rom, 0x000000001A#40, 0x00000000FF#40⟩
  | .rndXorK3X => ⟨.rom, 0x000000001D#40, 0x00000000FF#40⟩
  | .fin => ⟨.step, 0x0000000050#40, 0x000000007F#40⟩

/-- The 27 TXN rows, in the table's order. -/
def txnRows : List OpcodeRow :=
  [⟨.txn, 0x0000000000#40, 0xFFFFFFFFFF#40⟩,
    ⟨.txn, 0x0400000000#40, 0xFFFFFFFFFF#40⟩,
    ⟨.txn, 0x0800000000#40, 0xFFFFFFFFFF#40⟩,
    ⟨.txn, 0x0C00000000#40, 0xFFFFFFFFFF#40⟩,
    ⟨.txn, 0x1000000000#40, 0xFFFFFFFFFF#40⟩,
    ⟨.txn, 0x1400000000#40, 0xFFFFFFFFFF#40⟩,
    ⟨.txn, 0x1800000000#40, 0xFFFFFFFFFF#40⟩,
    ⟨.txn, 0x1C00000000#40, 0xFFFFFFFFFF#40⟩,
    ⟨.txn, 0x2000000000#40, 0xFFFFFFFFFF#40⟩]
  ++ [⟨.txn, 0x4000000000#40, 0xC3FFFFFFFF#40⟩,
    ⟨.txn, 0x8400000000#40, 0xFF00000000#40⟩,
    ⟨.txn, 0x8C00000000#40, 0xFF00000000#40⟩,
    ⟨.txn, 0x9000000000#40, 0xFF00000000#40⟩,
    ⟨.txn, 0x9400000000#40, 0xFF00000000#40⟩,
    ⟨.txn, 0x9800000000#40, 0xFF00000000#40⟩,
    ⟨.txn, 0x9C00000000#40, 0xFF00000000#40⟩,
    ⟨.txn, 0xA000000000#40, 0xFF00000000#40⟩,
    ⟨.txn, 0xC000000000#40, 0xC300000000#40⟩]
  ++ [⟨.txn, 0x8000000000#40, 0xFF00000000#40⟩,
    ⟨.txn, 0x8800000000#40, 0xFF00000000#40⟩,
    ⟨.txn, 0x2400000000#40, 0x7F00000000#40⟩,
    ⟨.txn, 0x2800000000#40, 0x7F00000000#40⟩,
    ⟨.txn, 0x2C00000000#40, 0x7F00000000#40⟩,
    ⟨.txn, 0x3000000000#40, 0x7F00000000#40⟩,
    ⟨.txn, 0x3400000000#40, 0x7F00000000#40⟩,
    ⟨.txn, 0x3800000000#40, 0x7F00000000#40⟩,
    ⟨.txn, 0x3C00000000#40, 0x7F00000000#40⟩]

end Sys2Proof
end

