-- ==== Sys2Proof/Machine/Algorithm.lean ====
section
/-! DEFINITION. The algorithm as the document states it, apart from the machine: the 80-word schedule
(spec/41_schedule_expander.md R150), the rounds selected by range (spec/42_round_alu.md R170), the compression of a
block and the chaining of blocks (spec/43_accumulators.md R205). The machine computes with a 16-word window and a control
ROM instead; that both agree is a claim about the machine. -/

namespace Sys2Proof.Machine

/-- The schedule word that follows the words `p` = S[0..n-1] of block `m` (R150). -/
def nextScheduleWord (m : Vector Word 16) (p : List Word) : Word :=
  let n := p.length
  if inBlock : n < 16 then m[n]
  else rotl32 (p.getD (n - 3) 0 ^^^ p.getD (n - 8) 0 ^^^ p.getD (n - 14) 0 ^^^ p.getD (n - 16) 0) 1

/-- S[0..n-1], the first n words of the schedule of block `m` (R150). -/
def schedulePrefix (m : Vector Word 16) (n : Nat) : List Word :=
  match n with
  | 0 => []
  | k + 1 =>
    let p := schedulePrefix m k
    p ++ [nextScheduleWord m p]

/-- S[t], the message schedule of block `m` (R150). -/
def schedule (m : Vector Word 16) (t : Nat) : Word := nextScheduleWord m (schedulePrefix m t)

/-- The boolean function of round `t`, by range (R170). -/
def docFn (t : Nat) (b c d : Word) : Word :=
  if t < 20 then (b &&& c) ||| (~~~b &&& d)
  else if t < 40 then b ^^^ c ^^^ d
  else if t < 60 then (b &&& c) ||| (b &&& d) ||| (c &&& d)
  else b ^^^ c ^^^ d

/-- The additive constant of round `t`, by range (R170). -/
def docConst (t : Nat) : Word :=
  if t < 20 then 0x5A827999#32
  else if t < 40 then 0x6ED9EBA1#32
  else if t < 60 then 0x8F1BBCDC#32
  else 0xCA62C1D6#32

/-- Round `t` of the document with the schedule word `sw` (R170). -/
def docRound (t : Nat) (sw : Word) (q : Work) : Work :=
  ⟨rotl32 q.a 5 + docFn t q.b q.c q.d + q.e + docConst t + sw, q.a, rotl32 q.b 30, q.c, q.d⟩

/-- The first `n` rounds on the working registers `q`, consuming S[0..n-1] of block `m`. -/
def docRounds (m : Vector Word 16) (n : Nat) (q : Work) : Work :=
  match n with
  | 0 => q
  | k + 1 => docRound k (schedule m k) (docRounds m k q)

/-- The working registers a block starts from (spec/43_accumulators.md R202). -/
def workOf (h : Vector Word 5) : Work := ⟨h[0], h[1], h[2], h[3], h[4]⟩

/-- One block's update of the state words: 80 rounds, then component-wise addition (R205). -/
def docBlock (h : Vector Word 5) (m : Vector Word 16) : Vector Word 5 :=
  let q := docRounds m 80 (workOf h)
  #v[h[0] + q.a, h[1] + q.b, h[2] + q.c, h[3] + q.d, h[4] + q.e]

/-- The chaining of the blocks of a message, in order (R205). -/
def docChain (h : Vector Word 5) (blocks : List (Vector Word 16)) : Vector Word 5 :=
  blocks.foldl docBlock h

end Sys2Proof.Machine
end

