-- ==== Sys2Proof/Machine/HostProcedure.lean ====
section
/-! DEFINITION. The host's side of a `sha1` call that needs no access to the machine: padding, word forming, block
count and digest rendering (spec/44_host_procedure.md R221 to R227). Nothing here is hardware state (R220). -/

namespace Sys2Proof.Machine

/-- The bits of a byte sequence, most significant bit first within each byte (R222). -/
def bitsOf (bytes : List Byte) : List Bool :=
  bytes.flatMap fun b => [7, 6, 5, 4, 3, 2, 1, 0].map fun k => b.getLsbD k

/-- (55 - L) mod 64, the number of zero bytes between the terminator and the length field (R222). -/
def zeroBytes (len : Nat) : Nat := (55 + 64 - len % 64) % 64

/-- The 64-bit big-endian encoding of `n` (R221). -/
def be64 (n : Nat) : List Byte := [7, 6, 5, 4, 3, 2, 1, 0].map fun k => BitVec.ofNat 8 (n >>> (8 * k))

/-- The padded stream P (R221, R222). -/
def padMessage (msg : List Byte) : List Byte :=
  msg ++ [0x80#8] ++ List.replicate (zeroBytes msg.length) 0x00#8 ++ be64 (8 * msg.length)

/-- The number of blocks of a message of `len` bytes (R227). -/
def blockCount (len : Nat) : Nat := (len + 8) / 64 + 1

/-- The big-endian word at byte `i` of a stream (R224). -/
def wordAt (p : List Byte) (i : Nat) : Word :=
  p.getD i 0 ++ p.getD (i + 1) 0 ++ p.getD (i + 2) 0 ++ p.getD (i + 3) 0

/-- Block k of a stream as sixteen words (R224). -/
def blockWords (p : List Byte) (k : Nat) : Vector Word 16 :=
  let word := fun j => wordAt p (64 * k + 4 * j)
  #v[word 0, word 1, word 2, word 3, word 4, word 5, word 6, word 7,
    word 8, word 9, word 10, word 11, word 12, word 13, word 14, word 15]

/-- The blocks of a message, in order (R224, R227). -/
def messageBlocks (msg : List Byte) : List (Vector Word 16) :=
  (List.range (blockCount msg.length)).map (blockWords (padMessage msg))

/-- A hexadecimal digit in lowercase (R225). -/
def hexDigit (n : BitVec 4) : Char :=
  ['0', '1', '2', '3', '4', '5', '6', '7', '8', '9', 'a', 'b', 'c', 'd', 'e', 'f'].getD n.toNat '0'

/-- The 8-digit representation of a word, most significant digit first, zero-padded (R225). -/
def hexWord (w : Word) : List Char := [7, 6, 5, 4, 3, 2, 1, 0].map fun k => hexDigit (w.extractLsb' (4 * k) 4)

/-- The digest string of H0..H4 (R225, R206). -/
def renderDigest (h : Vector Word 5) : List Char :=
  hexWord h[0] ++ hexWord h[1] ++ hexWord h[2] ++ hexWord h[3] ++ hexWord h[4]

/-- Why a `sha1` call fails without a digest. -/
inductive CallError where
  /-- 8L does not fit 64 bits (R223) -/
  | inputTooLarge
  /-- STATUS.ERR was 1 after a START (R226; spec/60_exceptions.md R253) -/
  | commandError
  /-- an access was answered by a bus error, or by something other than what the access asks for -/
  | busFault
  /-- a wait loop used up its polls (spec/93_implementation_defined.md I18) -/
  | outOfFuel
  /-- the machine faulted or refused a step -/
  | machineStopped
deriving DecidableEq, Repr

/-- The message is too large for the 64-bit length field (R223). -/
def inputTooLarge (msg : List Byte) : Bool := decide (2 ^ 64 ≤ 8 * msg.length)

/-- The digest of a message by the document's rules alone (R205, R206, R221 to R225), or InputTooLarge. -/
def docSha1 (msg : List Byte) : Except CallError (List Char) :=
  if inputTooLarge msg then .error .inputTooLarge
  else .ok (renderDigest (docChain iv (messageBlocks msg)))

end Sys2Proof.Machine
end

