-- ==== Sys2Proof/Machine/Assembler.lean ====
section
/-! DEFINITION. The notation for host programs: assembler lines, pseudo-instructions and listing lines
(spec/30_encoding.md R96 to R98). Notation only (spec/92_eei_decisions.md D27): no machine state. -/

namespace Sys2Proof.Machine

/-- `<reg>` of R96. -/
inductive AsmReg where
  /-- a named register -/
  | named (reg : WindowReg)
  /-- `@<hex offset>` -/
  | raw (off : BitVec 7)
deriving DecidableEq, Repr

/-- A line of R96. -/
inductive AsmLine where
  | rd (size : AccessSize) (reg : AsmReg)
  | wr (size : AccessSize) (reg : AsmReg) (imm : Word)
deriving DecidableEq, Repr

/-- The offset a register operand names. -/
def AsmReg.offset (r : AsmReg) : BitVec 7 :=
  match r with
  | .named reg => regOffset reg
  | .raw off => off

/-- The encoding of a line: its transaction record and SIZE (R96). -/
def assemble (line : AsmLine) : Txn :=
  match line with
  | .rd size reg => ⟨mkRecord .read reg.offset 0, size⟩
  | .wr size reg imm => ⟨mkRecord .write reg.offset imm, size⟩

/-- `rd <reg>`, size 4. -/
def rdReg (reg : WindowReg) : Txn := assemble (.rd .four (.named reg))

/-- `wr <reg>, <imm32>`, size 4. -/
def wrReg (reg : WindowReg) (imm : Word) : Txn := assemble (.wr .four (.named reg) imm)

/-- The pseudo-instructions (R97). -/
inductive Pseudo where
  | cmdNop
  | cmdInit
  | cmdStart
  | cmdAbort
  | cmdClrstat
  | loadBlock (m : Vector Word 16)
  /-- `wait_idle`: one poll, and the more polls the interleaving gives it (n >= 1) -/
  | waitIdle (morePolls : Nat)
  | readDigest
  | hashBlock (m : Vector Word 16) (morePolls : Nat)
deriving DecidableEq, Repr

/-- The 16 writes of `load_block`, in index order (R97). -/
def loadBlockTxns (m : Vector Word 16) : List Txn :=
  (List.finRange 16).map fun j => wrReg (.m j) m[j]

/-- The reads of `wait_idle`: n = `morePolls` + 1 of them (R97). -/
def waitIdleTxns (morePolls : Nat) : List Txn := List.replicate (morePolls + 1) (rdReg .status)

/-- The expansion of a pseudo-instruction (R97). -/
def Pseudo.expand (p : Pseudo) : List Txn :=
  match p with
  | .cmdNop => [wrReg .ctrl 0x0#32]
  | .cmdInit => [wrReg .ctrl 0x1#32]
  | .cmdStart => [wrReg .ctrl 0x2#32]
  | .cmdAbort => [wrReg .ctrl 0x3#32]
  | .cmdClrstat => [wrReg .ctrl 0x4#32]
  | .loadBlock m => loadBlockTxns m
  | .waitIdle morePolls => waitIdleTxns morePolls
  | .readDigest => [rdReg (.h 0), rdReg (.h 1), rdReg (.h 2), rdReg (.h 3), rdReg (.h 4)]
  | .hashBlock m morePolls => loadBlockTxns m ++ [wrReg .ctrl 0x2#32] ++ waitIdleTxns morePolls

/-! ### Text of a line (R96, R98) -/

/-- The names of the registers, as R96 spells them. -/
def regNames : List (List Char × WindowReg) :=
  [(['I', 'D'], .id), (['C', 'T', 'R', 'L'], .ctrl), (['S', 'T', 'A', 'T', 'U', 'S'], .status),
    (['I', 'R', 'Q', 'E', 'N'], .irqen), (['H', '0'], .h 0), (['H', '1'], .h 1), (['H', '2'], .h 2),
    (['H', '3'], .h 3), (['H', '4'], .h 4)]
  ++ [(['M', '0'], .m 0), (['M', '1'], .m 1), (['M', '2'], .m 2), (['M', '3'], .m 3), (['M', '4'], .m 4),
    (['M', '5'], .m 5), (['M', '6'], .m 6), (['M', '7'], .m 7)]
  ++ [(['M', '8'], .m 8), (['M', '9'], .m 9), (['M', '1', '0'], .m 10), (['M', '1', '1'], .m 11),
    (['M', '1', '2'], .m 12), (['M', '1', '3'], .m 13), (['M', '1', '4'], .m 14), (['M', '1', '5'], .m 15)]

/-- The value of a hexadecimal digit, in either case (spec/00_scope.md R6). -/
def hexValue (c : Char) : Option Nat :=
  let n := c.toNat
  if 48 ≤ n ∧ n ≤ 57 then some (n - 48)
  else if 97 ≤ n ∧ n ≤ 102 then some (n - 87)
  else if 65 ≤ n ∧ n ≤ 70 then some (n - 55)
  else none

/-- The number a list of hexadecimal digits writes, the first the most significant. -/
def hexNumber (acc : Nat) (ds : List Char) : Option Nat :=
  match ds with
  | [] => some acc
  | c :: rest =>
    match hexValue c with
    | some v => hexNumber (16 * acc + v) rest
    | none => none

/-- `0x` and 1 to `most` hexadecimal digits. -/
def hexLiteral (most : Nat) (cs : List Char) : Option Nat :=
  match cs with
  | '0' :: 'x' :: d :: ds => if ds.length < most then hexNumber 0 (d :: ds) else none
  | _ => none

/-- A register operand (R96). -/
def parseReg (cs : List Char) : Option AsmReg :=
  match cs with
  | '@' :: rest =>
    match hexLiteral 2 rest with
    | some n => if n < 128 then some (.raw (BitVec.ofNat 7 n)) else none
    | none => none
  | _ => (regNames.lookup cs).map AsmReg.named

/-- An optional size suffix; without one the size is 4 (R96). -/
def parseSize (cs : List Char) : Option AccessSize :=
  match cs with
  | [] => some .four
  | ['.', '1'] => some .one
  | ['.', '2'] => some .two
  | ['.', '4'] => some .four
  | _ => none

/-- The words of a line: a `;` starts a comment, spaces separate, and a comma is a word of its own (log entry 17). -/
def asmWords (word : List Char) (cs : List Char) : List (List Char) :=
  let flush : List (List Char) := if word.isEmpty then [] else [word.reverse]
  match cs with
  | [] => flush
  | c :: rest =>
    if c = ';' then flush
    else if c = ' ' then flush ++ asmWords [] rest
    else if c = ',' then flush ++ [','] :: asmWords [] rest
    else asmWords (c :: word) rest

/-- The line that words stand for (R96). -/
def parseWords (ws : List (List Char)) : Option AsmLine :=
  match ws with
  | [op, reg] =>
    match op with
    | 'r' :: 'd' :: suffix =>
      match parseSize suffix, parseReg reg with
      | some size, some r => some (.rd size r)
      | _, _ => none
    | _ => none
  | [op, reg, [','], imm] =>
    match op with
    | 'w' :: 'r' :: suffix =>
      match parseSize suffix, parseReg reg, hexLiteral 8 imm with
      | some size, some r, some n => some (.wr size r (BitVec.ofNat 32 n))
      | _, _, _ => none
    | _ => none
  | _ => none

/-- The line that a text stands for (R96). -/
def parseLine (cs : List Char) : Option AsmLine := parseWords (asmWords [] cs)

/-- The size suffix of a line, written only where the size is not 4 (R82, R96). -/
def showSize (size : AccessSize) : List Char :=
  match size with
  | .one => ['.', '1']
  | .two => ['.', '2']
  | .four => []

/-- Hexadecimal digits, most significant first. -/
def hexDigits (digits : Nat) (n : Nat) : List Char :=
  match digits with
  | 0 => []
  | k + 1 => hexDigits k (n / 16) ++ [hexDigit (BitVec.ofNat 4 n)]

/-- The name of a register operand; a reserved offset has no name but its raw offset (R96). -/
def showReg (r : AsmReg) : List Char :=
  let rawText := ['@', '0', 'x'] ++ hexDigits 2 r.offset.toNat
  match r with
  | .raw _ => rawText
  | .named reg =>
    match regNames.find? (fun p => p.2 = reg) with
    | some p => p.1
    | none => rawText

/-- The text of a line (R96). -/
def showLine (line : AsmLine) : List Char :=
  match line with
  | .rd size reg => ['r', 'd'] ++ showSize size ++ [' '] ++ showReg reg
  | .wr size reg imm => ['w', 'r'] ++ showSize size ++ [' '] ++ showReg reg ++ [',', ' ', '0', 'x'] ++ hexWord imm

/-- A listing line `<record hex> <SIZE> <assembly>` (R98), the record as 10 hex digits (R81). -/
def showListing (line : AsmLine) : List Char :=
  let t := assemble line
  let sizeDigit : Char := match t.size with
    | .one => '1'
    | .two => '2'
    | .four => '4'
  ['0', 'x'] ++ hexDigits 10 t.record.toNat ++ [' ', sizeDigit, ' '] ++ showLine line

end Sys2Proof.Machine
end

