-- ==== Sys2Proof/Machine/Driver.lean ====
section
/-! DEFINITION. Runs of the machine, and the host driver of a complete `sha1` call (spec/44_host_procedure.md R226) on
top of them. The driver is a host program, not hardware; its loops run under fuel (spec/30_encoding.md R97; I18). -/

namespace Sys2Proof.Machine

/-- `n` steps, stopping at the first fault or refusal. -/
def run (n : Nat) (s : State) : Host.Outcome State Fault Refusal :=
  match n with
  | 0 => .next s
  | k + 1 =>
    match step s with
    | .next s' => run k s'
    | .fault r => .fault r
    | .refused r => .refused r

/-- A host in the middle of its program: the machine, and how many times the host has acted on it. -/
structure HostRun where
  dev : State
  acts : Nat
deriving DecidableEq, Repr

/-- The host acts: `gap n` turns of the engine come before its n-th act (R12, R283; log entry 12), then the events it
brings. It is the only one using the machine, so nothing else is pending (spec/60_exceptions.md R260). -/
def act (gap : Nat → Nat) (own : List Event) (r : HostRun) : Except CallError HostRun :=
  let turns := gap r.acts
  match run (turns + own.length) { r.dev with pending := List.replicate turns .engine ++ own } with
  | .next s => .ok ⟨s, r.acts + 1⟩
  | .fault _ => .error .machineStopped
  | .refused _ => .error .machineStopped

/-- One access of the host. -/
def access (gap : Nat → Nat) (t : Txn) (r : HostRun) : Except CallError HostRun := act gap [.host t] r

/-- A look at the level of `irq`, which is no access (spec/60_exceptions.md R254). -/
def lookIrq (gap : Nat → Nat) (r : HostRun) : Except CallError (Bool × HostRun) := do
  let r ← act gap [] r
  .ok (irq r.dev, r)

/-- A read and the value it returned. -/
def hostRead (gap : Nat → Nat) (reg : WindowReg) (r : HostRun) : Except CallError (Word × HostRun) := do
  let r ← access gap (rdReg reg) r
  match r.dev.response with
  | .value v => .ok (v, r)
  | .none => .error .busFault
  | .written => .error .busFault
  | .busError _ => .error .busFault

/-- A write that completes. -/
def hostWrite (gap : Nat → Nat) (reg : WindowReg) (v : Word) (r : HostRun) : Except CallError HostRun := do
  let r ← access gap (wrReg reg v) r
  match r.dev.response with
  | .written => .ok r
  | .none => .error .busFault
  | .value _ => .error .busFault
  | .busError _ => .error .busFault

/-! ### Waiting for the engine -/

/-- `wait_idle` (R97): read STATUS until BUSY = 0, at most `fuel` times. It answers the last value read. -/
def waitIdle (gap : Nat → Nat) (fuel : Nat) (r : HostRun) : Except CallError (Word × HostRun) :=
  match fuel with
  | 0 => .error .outOfFuel
  | k + 1 => do
    let (v, r) ← hostRead gap .status r
    if v.getLsbD 0 then waitIdle gap k r else .ok (v, r)

/-- Waiting on `irq` (R226; spec/70_reset_and_hazards.md R280): look at it until it is high, at most `fuel` times, then
read STATUS, which tells completion (DONE) or an error (ERR). It answers the value read. -/
def waitIrq (gap : Nat → Nat) (fuel : Nat) (r : HostRun) : Except CallError (Word × HostRun) :=
  match fuel with
  | 0 => .error .outOfFuel
  | k + 1 => do
    let (high, r) ← lookIrq gap r
    if high then
      let (v, r) ← hostRead gap .status r
      if v.getLsbD 1 || v.getLsbD 2 then .ok (v, r) else waitIrq gap k r
    else waitIrq gap k r

/-- How the host learns that a block is done (R226). -/
inductive WaitBy where
  /-- poll STATUS until BUSY = 0 -/
  | polling
  /-- wait on `irq`, with both causes enabled -/
  | irq
deriving DecidableEq, Repr

/-- When the host loads a block (R226; spec/70_reset_and_hazards.md R282). -/
inductive LoadWhen where
  /-- when the block before it is done -/
  | afterBlock
  /-- while the block before it runs -/
  | whileRunning
deriving DecidableEq, Repr

/-- The form of a call: R226 allows each way to wait, with each time to load. DESIGN CHOICE: R226 leaves both to the
host block by block, and one call of the model keeps one form for all its blocks (log entry 20). -/
structure CallForm where
  waitBy : WaitBy
  loadWhen : LoadWhen
deriving DecidableEq, Repr

/-- The wait for a block, by either way. -/
def awaitBlock (way : WaitBy) (gap : Nat → Nat) (fuel : Nat) (r : HostRun) : Except CallError (Word × HostRun) :=
  match way with
  | .polling => waitIdle gap fuel r
  | .irq => waitIrq gap fuel r

/-- `require STATUS.ERR = 0` on a STATUS value, else the call fails (R226; spec/60_exceptions.md R253). -/
def requireNoError (status : Word) : Except CallError Unit :=
  if status.getLsbD 2 then .error .commandError else .ok ()

/-- The enables of a host that waits on `irq`, written before it waits for anything (spec/70_reset_and_hazards.md R274,
step 2; log entry 20); a polling host writes none. -/
def enableIrq (way : WaitBy) (gap : Nat → Nat) (r : HostRun) : Except CallError HostRun :=
  match way with
  | .polling => .ok r
  | .irq => hostWrite gap .irqen 0x3#32 r

/-! ### The blocks of a message -/

/-- The writes of M[j] for the given indices, in order. -/
def writeWords (gap : Nat → Nat) (m : Vector Word 16) (js : List (Fin 16)) (r : HostRun) : Except CallError HostRun :=
  match js with
  | [] => .ok r
  | j :: rest => do
    let r ← hostWrite gap (.m j) m[j] r
    writeWords gap m rest r

/-- `load_block`: the sixteen writes, in index order (R97). -/
def loadBlock (gap : Nat → Nat) (m : Vector Word 16) (r : HostRun) : Except CallError HostRun :=
  writeWords gap m (List.finRange 16) r

/-- The wait for the block that runs, and the ERR check after it. -/
def finishBlock (way : WaitBy) (gap : Nat → Nat) (fuel : Nat) (r : HostRun) : Except CallError HostRun := do
  let (v, r) ← awaitBlock way gap fuel r
  requireNoError v
  .ok r

/-- The blocks of a message in order, each loaded when the one before it is done (R226). -/
def hashBlocks (way : WaitBy) (gap : Nat → Nat) (fuel : Nat) (ms : List (Vector Word 16)) (r : HostRun) :
    Except CallError HostRun :=
  match ms with
  | [] => .ok r
  | m :: rest => do
    let r ← loadBlock gap m r
    let r ← hostWrite gap .ctrl 0x2#32 r
    let r ← finishBlock way gap fuel r
    hashBlocks way gap fuel rest r

/-- START of the block already in M, and the ERR check that follows each START where blocks overlap (R226). -/
def startChecked (gap : Nat → Nat) (r : HostRun) : Except CallError HostRun := do
  let r ← hostWrite gap .ctrl 0x2#32 r
  let (v, r) ← hostRead gap .status r
  requireNoError v
  .ok r

/-- The block already in M and the `later` ones, each of these written while the one before it runs (R226; R282). -/
def overlapBlocks (way : WaitBy) (gap : Nat → Nat) (fuel : Nat) (later : List (Vector Word 16)) (r : HostRun) :
    Except CallError HostRun :=
  match later with
  | [] => do
    let r ← startChecked gap r
    finishBlock way gap fuel r
  | m :: rest => do
    let r ← startChecked gap r
    let r ← loadBlock gap m r
    let r ← finishBlock way gap fuel r
    overlapBlocks way gap fuel rest r

/-- The blocks of a message, in order, in the form of the call. -/
def hashMessage (form : CallForm) (gap : Nat → Nat) (fuel : Nat) (ms : List (Vector Word 16)) (r : HostRun) :
    Except CallError HostRun :=
  match form.loadWhen with
  | .afterBlock => hashBlocks form.waitBy gap fuel ms r
  | .whileRunning =>
    match ms with
    | [] => .ok r
    | m :: rest => do
      let r ← loadBlock gap m r
      overlapBlocks form.waitBy gap fuel rest r

/-- `read_digest` (R97): H0 to H4, in order. -/
def readDigest (gap : Nat → Nat) (r : HostRun) : Except CallError (Vector Word 5 × HostRun) := do
  let (h0, r) ← hostRead gap (.h 0) r
  let (h1, r) ← hostRead gap (.h 1) r
  let (h2, r) ← hostRead gap (.h 2) r
  let (h3, r) ← hostRead gap (.h 3) r
  let (h4, r) ← hostRead gap (.h 4) r
  .ok (#v[h0, h1, h2, h3, h4], r)

/-! ### The call, and the boot before it -/

/-- The accesses of a call for a message that fits (R226): wait until STATUS.BUSY = 0, INIT, the blocks, then the digest
rendered. -/
def hashCall (form : CallForm) (gap : Nat → Nat) (fuel : Nat) (msg : List Byte) (r : HostRun) :
    Except CallError (List Char) := do
  let (_, r) ← waitIdle gap fuel r
  let r ← hostWrite gap .ctrl 0x1#32 r
  let r ← hashMessage form gap fuel (messageBlocks msg) r
  let (h, _) ← readDigest gap r
  .ok (renderDigest h)

/-- A complete `sha1(message)` call (R226), in any of its forms: InputTooLarge before any access (R223), the enables
where the host waits on `irq`, then the accesses of the call. -/
def sha1Call (form : CallForm) (gap : Nat → Nat) (fuel : Nat) (msg : List Byte) (s : State) :
    Except CallError (List Char) :=
  if inputTooLarge msg then .error .inputTooLarge
  else do
    let r ← enableIrq form.waitBy gap ⟨s, 0⟩
    hashCall form gap fuel msg r

/-- How a booting host makes sure that STATUS.BUSY = 0 (spec/70_reset_and_hazards.md R274, step 3). -/
inductive IdleBy where
  /-- wait for the block in flight -/
  | wait
  /-- ABORT it -/
  | abort
deriving DecidableEq, Repr

/-- STATUS.BUSY = 0 by either way; it answers a STATUS value, whose ERR bit still holds (R274, step 3; log entry 21). -/
def makeIdle (how : IdleBy) (gap : Nat → Nat) (fuel : Nat) (r : HostRun) : Except CallError (Word × HostRun) :=
  match how with
  | .wait => waitIdle gap fuel r
  | .abort => do
    let (v, r) ← hostRead gap .status r
    if v.getLsbD 0 then
      let r ← hostWrite gap .ctrl 0x3#32 r
      .ok (v, r)
    else .ok (v, r)

/-- CLRSTAT where a STATUS value shows ERR = 1 (R274, step 4). -/
def clearError (gap : Nat → Nat) (status : Word) (r : HostRun) : Except CallError HostRun :=
  if status.getLsbD 2 then hostWrite gap .ctrl 0x4#32 r else .ok r

/-- The boot of a host, steps 2 to 5 in order: IRQEN where it will use `irq`, BUSY = 0, CLRSTAT where ERR = 1, INIT
(spec/70_reset_and_hazards.md R274). Step 1, the mapping of the window, is the platform's (log entry 16). -/
def boot (way : WaitBy) (how : IdleBy) (gap : Nat → Nat) (fuel : Nat) (r : HostRun) : Except CallError HostRun := do
  let r ← enableIrq way gap r
  let (v, r) ← makeIdle how gap fuel r
  let r ← clearError gap v r
  hostWrite gap .ctrl 0x1#32 r

/-- The boot, then the call (R274, step 6); an InputTooLarge message fails before any access here too (R223). -/
def bootedCall (how : IdleBy) (form : CallForm) (gap : Nat → Nat) (fuel : Nat) (msg : List Byte) (s : State) :
    Except CallError (List Char) :=
  if inputTooLarge msg then .error .inputTooLarge
  else do
    let r ← boot form.waitBy how gap fuel ⟨s, 0⟩
    hashCall form gap fuel msg r

end Sys2Proof.Machine
end

