-- ==== Sys2Proof/Safety.lean ====
section
/-! DEFINITION. What the claims speak of: the invariant of the machine, what an event runs, and runs that meet no
fault and no refusal. -/

namespace Sys2Proof.Machine

/-- T is 0..80 (spec/10_state.md R22). -/
abbrev State.roundInRange (s : State) : Prop := s.t.toNat ≤ 80

/-- While idle T is 0, or 80 after a finalize step (R22, R38). -/
abbrev State.idleRound (s : State) : Prop := s.busy = false → s.t = 0 ∨ s.t = 80

/-- DONE is 1 only when the last block has finalized (R35, R38). -/
abbrev State.doneMeansFinal (s : State) : Prop := s.done = true → s.busy = false ∧ s.t = 80

/-- ERRCODE reads 0 exactly when ERR = 0, and values 4 to 7 are never produced (R37). -/
abbrev State.errcodeLegal (s : State) : Prop := (s.errcode = 0 ↔ s.err = false) ∧ s.errcode.toNat < 4

/-- The control ROM is the table of R176 (R28). -/
abbrev State.romIntact (s : State) : Prop := s.rom = romTable

/-- The invariant of the machine. -/
abbrev State.Inv (s : State) : Prop :=
  s.roundInRange ∧ s.idleRound ∧ s.doneMeansFinal ∧ s.errcodeLegal ∧ s.romIntact

/-- The instruction a host event asks for; the engine's turn and a reset ask for none by themselves. -/
def Event.asks (e : Event) : Option Instr :=
  match e with
  | .host t => (decodeTxn t.record t.size).instr?
  | .engine => none
  | .reset => none

/-- The event is one the hardware may meet: a host transaction is well formed (spec/30_encoding.md R81). -/
def Event.legal (e : Event) : Bool :=
  match e with
  | .host t => wellFormedRecord t.record
  | .engine => true
  | .reset => true

/-- The instruction the next step runs, if it runs one. -/
def State.runs (s : State) : Option Instr :=
  match fetch s with
  | .run i _ => some i
  | .settled _ => none
  | .broken _ => none
  | .refuse _ => none

/-- The next step is a reset. -/
def State.resets (s : State) : Bool := s.pending.head? = some .reset

/-- The next event is the engine's turn, and `s0` is the state it starts from: the turn is at the head of the pending
events, or nothing is pending (log entry 1). -/
def State.engineTurn (s s0 : State) : Prop :=
  (s.pending = [] ∧ s0 = s) ∨ ∃ rest, s.pending = .engine :: rest ∧ s0 = { s with pending := rest }

/-- The event asks for a host write to some H[i]. -/
def Event.writesH (e : Event) : Prop :=
  ∃ data, e.asks = some (.wrH0 data) ∨ e.asks = some (.wrH1 data) ∨ e.asks = some (.wrH2 data) ∨
    e.asks = some (.wrH3 data) ∨ e.asks = some (.wrH4 data)

/-- The number of turns of the engine in a list of events. -/
def engineTurns (evs : List Event) : Nat := evs.count .engine

/-- The window of the expander before round `t` of block `m` (spec/41_schedule_expander.md R153): M itself before round
16; from then on each slot holds the latest schedule word of its residue. -/
def windowHolds (m : Vector Word 16) (t : Nat) (w : Vector Word 16) : Prop :=
  (t < 16 → ∀ j : Fin 16, w[j] = m[j]) ∧
  (16 ≤ t → ∀ n : Nat, t - 16 ≤ n → n < t → ∀ j : Fin 16, j.val = n % 16 → w[j] = schedule m n)

end Sys2Proof.Machine
end

