-- ==== Sys2Proof/Certificates/Slice0/Obligations.lean ====
section
/-! DEFINITION. The statements about SHA1CE, each formalising what a rule of spec/ says an access, a micro-operation or
the machine does. Where a statement speaks of the answer on the bus it speaks of the model's own field `response` (log
entry 2); where it speaks of what happens next, of the model's own field `pending` (log entry 1). -/

open Sys2Proof Sys2Proof.Machine

/-! ### Encoding -/

/-- Words written out from the formats of 30_encoding.md decode to the instructions they stand for, and ill-formed,
misaligned, sub-word and reserved ones are rejected by name. -/
def Obligations.DecodeSpecWords : Prop :=
  decode (.txn 0x0800000000#40) = .ok .rdStatus ∧
  decode (.txn 0x2000000000#40) = .ok .rdH4 ∧
  decode (.txn 0x4C00000000#40) = .ok (.rdM 3) ∧
  decode (.txn 0x8400000002#40) = .ok (.wrCtrl 0x00000002#32) ∧
  decode (.txn 0x8CFFFFFFFF#40) = .ok (.wrIrqen 0xFFFFFFFF#32) ∧
  decode (.txn 0xC061626380#40) = .ok (.wrM 0 0x61626380#32) ∧
  decode (.txn 0xFC00000018#40) = .ok (.wrM 15 0x00000018#32) ∧
  decode (.txn 0x8800000000#40) = .ok (.wrRoStatus 0x00000000#32) ∧
  decode (.txn 0xBC00000005#40) = .ok (.accRsvd3C .write 0x00000005#32) ∧
  decode (.ctrl 0x00000002#32) = .ok .start ∧
  decode (.ctrl 0x00000012#32) = .reject .illegalCommand ∧
  decode (.rom 0x1A#8) = .ok .rndMajK2X ∧
  decode (.rom 0x03#8) = .reject .reservedRomWord ∧
  decode (.step 80#7) = .ok .fin ∧
  decodeTxn 0x0800000000#40 .two = .reject .sizeNotFour ∧
  decode (.txn 0x4100000000#40) = .reject .misaligned ∧
  decode (.txn 0x0800000001#40) = .reject .readWithData

/-- Every well-formed instruction decodes from its words, with every operand at every value. -/
def Obligations.DecodeEncodeRoundTrip : Prop :=
  ∀ i : Instr, i.wellFormed = true → decode (encode i) = .ok i

/-- A word that decodes is the one word of its instruction, and that instruction is well formed: no word is read twice,
no bit of it is ignored. -/
def Obligations.EncodeDecodeRoundTrip : Prop :=
  ∀ (e : Encoded) (i : Instr), decode e = .ok i → encode i = e ∧ i.wellFormed = true

/-- "Every aligned, well-formed record matches exactly one TXN row of opcode_table.json" (R95), and that row is the one
of the instruction it decodes to. -/
def Obligations.AlignedRecordMatchesOneRow : Prop :=
  ∀ r : BitVec 40, wellFormedRecord r = true → (recordOff r).toNat % 4 = 0 →
    ∃ i, decode (.txn r) = .ok i ∧ txnRows.filter (fun row => row.matchesWord (.txn r)) = [opcodeRow i]

/-- The offset table of R83, for both directions: which instruction an aligned, well-formed record of size 4 is; an
offset whose bits 1:0 are not 00 is misaligned. -/
def Obligations.RecordsDecodeByOffset : Prop :=
  ∀ r : BitVec 40, wellFormedRecord r = true →
    let off := (recordOff r).toNat
    let data := recordData r
    (off % 4 ≠ 0 → decode (.txn r) = .reject .misaligned) ∧
    (off = 0x24 → decode (.txn r) = .ok (.accRsvd24 (recordDir r) data)) ∧
    (off = 0x28 → decode (.txn r) = .ok (.accRsvd28 (recordDir r) data)) ∧
    (off = 0x2C → decode (.txn r) = .ok (.accRsvd2C (recordDir r) data)) ∧
    (off = 0x30 → decode (.txn r) = .ok (.accRsvd30 (recordDir r) data)) ∧
    (off = 0x34 → decode (.txn r) = .ok (.accRsvd34 (recordDir r) data)) ∧
    (off = 0x38 → decode (.txn r) = .ok (.accRsvd38 (recordDir r) data)) ∧
    (off = 0x3C → decode (.txn r) = .ok (.accRsvd3C (recordDir r) data)) ∧
    (recordDir r = .read →
      (off = 0x00 → decode (.txn r) = .ok .rdId) ∧
      (off = 0x04 → decode (.txn r) = .ok .rdCtrl) ∧
      (off = 0x08 → decode (.txn r) = .ok .rdStatus) ∧
      (off = 0x0C → decode (.txn r) = .ok .rdIrqen) ∧
      (off = 0x10 → decode (.txn r) = .ok .rdH0) ∧
      (off = 0x14 → decode (.txn r) = .ok .rdH1) ∧
      (off = 0x18 → decode (.txn r) = .ok .rdH2) ∧
      (off = 0x1C → decode (.txn r) = .ok .rdH3) ∧
      (off = 0x20 → decode (.txn r) = .ok .rdH4) ∧
      (∀ j : Fin 16, off = 0x40 + 4 * j.val → decode (.txn r) = .ok (.rdM j))) ∧
    (recordDir r = .write →
      (off = 0x00 → decode (.txn r) = .ok (.wrRoId data)) ∧
      (off = 0x04 → decode (.txn r) = .ok (.wrCtrl data)) ∧
      (off = 0x08 → decode (.txn r) = .ok (.wrRoStatus data)) ∧
      (off = 0x0C → decode (.txn r) = .ok (.wrIrqen data)) ∧
      (off = 0x10 → decode (.txn r) = .ok (.wrH0 data)) ∧
      (off = 0x14 → decode (.txn r) = .ok (.wrH1 data)) ∧
      (off = 0x18 → decode (.txn r) = .ok (.wrH2 data)) ∧
      (off = 0x1C → decode (.txn r) = .ok (.wrH3 data)) ∧
      (off = 0x20 → decode (.txn r) = .ok (.wrH4 data)) ∧
      (∀ j : Fin 16, off = 0x40 + 4 * j.val → decode (.txn r) = .ok (.wrM j data)))

/-! ### What one step runs -/

/-- A host transaction at the head of the pending events: where its record and SIZE decode to an instruction, the step
is that instruction run with the event taken off; a read record whose DATA is not 0 is no hardware event (R81) and the
step refuses it (log entry 4). -/
def Obligations.StepRunsHostTransaction : Prop :=
  ∀ (s : State) (t : Txn) (rest : List Event), s.pending = .host t :: rest →
    (∀ i, decodeTxn t.record t.size = .ok i → step s = exec i { s with pending := rest }) ∧
    (recordDir t.record = .read → recordData t.record ≠ 0 → step s = .refused .illFormedRecord)

/-- R23: the engine's turn by phase. Idle, no engine step, and nothing changes; busy with T in 0..79, the round that
ROM[T] names, where the ROM holds no reserved word; busy with T = 80, the finalize step; busy with T in 81..127, a fault. -/
def Obligations.EngineTurnFollowsPhase : Prop :=
  ∀ s s0 : State, s.engineTurn s0 →
    (s.busy = false → step s = .next s0) ∧
    (s.busy = true → (∀ t : Fin 80, s.rom[t] ∈ [0x00#8, 0x10#8, 0x15#8, 0x1A#8, 0x1D#8]) →
      ∀ inRom : s.t.toNat < 80, ∀ i, decode (.rom s.rom[s.t.toNat]) = .ok i →
      step s = exec i s0) ∧
    (s.busy = true → s.t.toNat = 80 → step s = exec .fin s0) ∧
    (s.busy = true → 80 < s.t.toNat → step s = .fault .roundCounterOutOfRange)

/-- R91: a control ROM word with FSEL = 3, with a bit of 7:5 set, or none of the five of R88 is reserved; none occurs in
the ROM, which no step changes; a model that generalises over ROM contents refuses it, wherever in the ROM it stands,
before any round runs (I5). -/
def Obligations.ReservedRomWordIsRefused : Prop :=
  (∀ s s0 : State, s.engineTurn s0 → s.busy = true → s.t.toNat < 80 → ∀ t : Fin 80,
    (s.rom[t].extractLsb' 0 2 = 3#2 ∨ s.rom[t].extractLsb' 5 3 ≠ 0#3 ∨
      s.rom[t] ∉ [0x00#8, 0x10#8, 0x15#8, 0x1A#8, 0x1D#8]) →
    step s = .refused .reservedRomWord) ∧
  (∀ t : Fin 80, State.reset.rom[t] ∈ [0x00#8, 0x10#8, 0x15#8, 0x1A#8, 0x1D#8]) ∧
  (∀ s s' : State, step s = .next s' → s'.rom = s.rom)

/-! ### Reset -/

/-- R270: the reset step, from any state, busy or not. The control ROM is not affected, and the engine comes out
idle. (The events after it and the last answer stay: log entries 1 and 2.) -/
def Obligations.ResetStepSetsEveryRegister : Prop :=
  ∀ (s : State) (rest : List Event), s.pending = .reset :: rest →
    ∃ s', step s = .next s' ∧
      s'.h = #v[0x67452301#32, 0xEFCDAB89#32, 0x98BADCFE#32, 0x10325476#32, 0xC3D2E1F0#32] ∧
      (∀ j : Fin 16, s'.m[j] = 0) ∧ (∀ j : Fin 16, s'.w[j] = 0) ∧ s'.work = ⟨0, 0, 0, 0, 0⟩ ∧
      s'.t = 0 ∧ s'.wvalid = 0 ∧ s'.busy = false ∧ s'.done = false ∧ s'.err = false ∧ s'.errcode = 0 ∧
      s'.doneIe = false ∧ s'.errIe = false ∧ s'.rom = s.rom ∧ s'.phase = .idle ∧
      s'.pending = rest ∧ s'.response = s.response

/-- R45: the value of every piece of state the spec gives the machine after reset, `irq` included; the ROM holds its
constant contents. -/
def Obligations.ResetLeavesSpecValues : Prop :=
  State.reset.work = ⟨0, 0, 0, 0, 0⟩ ∧ State.reset.t = 0 ∧
  (∀ j : Fin 16, State.reset.m[j] = 0) ∧ State.reset.wvalid = 0x0000#16 ∧ (∀ j : Fin 16, State.reset.w[j] = 0) ∧
  State.reset.h = #v[0x67452301#32, 0xEFCDAB89#32, 0x98BADCFE#32, 0x10325476#32, 0xC3D2E1F0#32] ∧
  State.reset.busy = false ∧ State.reset.done = false ∧ State.reset.err = false ∧ State.reset.errcode = 0 ∧
  State.reset.doneIe = false ∧ State.reset.errIe = false ∧ irq State.reset = false ∧
  State.reset.rom = romTable

/-- R273: what the host reads after reset; and START fails with INCOMPLETE whatever M holds, unless all sixteen words
have been written. -/
def Obligations.AfterResetHostReads : Prop :=
  exec .rdId State.reset = .next { State.reset with response := .value 0x53484131#32 } ∧
  exec .rdStatus State.reset = .next { State.reset with response := .value 0x00000000#32 } ∧
  exec .rdIrqen State.reset = .next { State.reset with response := .value 0x00000000#32 } ∧
  exec .rdH0 State.reset = .next { State.reset with response := .value 0x67452301#32 } ∧
  exec .rdH1 State.reset = .next { State.reset with response := .value 0xEFCDAB89#32 } ∧
  exec .rdH2 State.reset = .next { State.reset with response := .value 0x98BADCFE#32 } ∧
  exec .rdH3 State.reset = .next { State.reset with response := .value 0x10325476#32 } ∧
  exec .rdH4 State.reset = .next { State.reset with response := .value 0xC3D2E1F0#32 } ∧
  (∀ j : Fin 16, exec (.rdM j) State.reset = .next { State.reset with response := .value 0x00000000#32 }) ∧
  irq State.reset = false ∧
  (∀ (m : Vector Word 16) (valid : BitVec 16), valid ≠ 0xFFFF#16 →
    exec .start { State.reset with m := m, wvalid := valid } =
      .next { State.reset with m := m, wvalid := valid, err := true, errcode := 3#3, response := .written })

/-- R176: the contents of the control ROM, field by field: FSEL = 0, 1, 2, 1 by group of twenty rounds, KSEL = the
group, EXP from round 16 on, the reserved bits 0; and the function and the constant they select. -/
def Obligations.RomContents : Prop :=
  ∀ t : Fin 80,
    State.reset.rom[t].extractLsb' 0 2 = [0#2, 1#2, 2#2, 1#2].getD (t.val / 20) 3#2 ∧
    (State.reset.rom[t].extractLsb' 2 2).toNat = t.val / 20 ∧
    State.reset.rom[t].getLsbD 4 = decide (16 ≤ t.val) ∧
    State.reset.rom[t].extractLsb' 5 3 = 0#3 ∧
    romFsel State.reset.rom[t] = [BoolFn.sel, .xor, .maj, .xor][t.val / 20]? ∧
    [0x5A827999#32, 0x6ED9EBA1#32, 0x8F1BBCDC#32, 0xCA62C1D6#32][t.val / 20]? =
      some (ktab (State.reset.rom[t].extractLsb' 2 2))

/-! ### Reads -/

/-- RD.ID and RD.CTRL (R111, R112): in every state the first answers 0x53484131 and the second 0, and nothing else
changes. -/
def Obligations.ConstantReads : Prop :=
  decode (.txn 0x0000000000#40) = .ok .rdId ∧ decode (.txn 0x0400000000#40) = .ok .rdCtrl ∧
  ∀ s : State, exec .rdId s = .next { s with response := .value 0x53484131#32 } ∧
    exec .rdCtrl s = .next { s with response := .value 0x00000000#32 }

/-- RD.STATUS (R33, R113): `(WVALID << 16) | (T << 8) | (ERRCODE << 4) | (ERR << 2) | (DONE << 1) | BUSY`, and nothing
else changes. -/
def Obligations.StatusRead : Prop :=
  ∀ s : State,
    let bit := fun b : Bool => if b then 1#32 else 0#32
    let value := (s.wvalid.setWidth 32 <<< 16) ||| (s.t.setWidth 32 <<< 8) ||| (s.errcode.setWidth 32 <<< 4)
      ||| (bit s.err <<< 2) ||| (bit s.done <<< 1) ||| bit s.busy
    exec .rdStatus s = .next { s with response := .value value }

/-- RD.IRQEN (R114): zext_32 of the two enables, and after a write of all ones it reads 3. -/
def Obligations.IrqenRead : Prop :=
  decode (.txn 0x0C00000000#40) = .ok .rdIrqen ∧
  (∀ s : State,
    let bit := fun b : Bool => if b then 1#32 else 0#32
    exec .rdIrqen s = .next { s with response := .value ((bit s.errIe <<< 1) ||| bit s.doneIe) }) ∧
  (∀ s s' : State, exec (.wrIrqen 0xFFFFFFFF#32) s = .next s' →
    exec .rdIrqen s' = .next { s' with response := .value 0x00000003#32 })

/-- RD.H0..RD.H4 and RD.M (R115, R116): each answers its own register, in every state, and changes nothing else;
WVALID is unchanged. -/
def Obligations.RegisterFileReads : Prop :=
  ∀ s : State,
    exec .rdH0 s = .next { s with response := .value s.h[0] } ∧
    exec .rdH1 s = .next { s with response := .value s.h[1] } ∧
    exec .rdH2 s = .next { s with response := .value s.h[2] } ∧
    exec .rdH3 s = .next { s with response := .value s.h[3] } ∧
    exec .rdH4 s = .next { s with response := .value s.h[4] } ∧
    ∀ j : Fin 16, exec (.rdM j) s = .next { s with response := .value s.m[j] }

/-- R66: a read of any register, STATUS included, changes no state but the answer, and the same read made again at once
gives the same answer. A read of whatever size and offset is meant, one that gets a bus error too. -/
def Obligations.ReadsChangeNoRegister : Prop :=
  ∀ (s : State) (t : Txn) (rest : List Event), recordDir t.record = .read → recordData t.record = 0 →
    s.pending = .host t :: .host t :: rest →
    ∃ answer, run 1 s = .next { s with pending := .host t :: rest, response := answer } ∧
      run 2 s = .next { s with pending := rest, response := answer }

/-- R60: `MemRead(off, 4)` of an aligned offset answers the 32-bit value of the register at that offset, by the register
map of R30, and a bus error where the map has none. -/
def Obligations.ReadsReturnTheRegister : Prop :=
  ∀ (s : State) (reg : WindowReg) (rest : List Event), s.pending = .host (rdReg reg) :: rest →
    (∀ v, memRead reg s = some v → step s = .next { s with pending := rest, response := .value v }) ∧
    (memRead reg s = none → step s = .next { s with pending := rest, response := .busError (regOffset reg) })

/-! ### Commands and writes -/

/-- NOP (R118): in any state, busy too, every register is unchanged; the write that carried it completes. -/
def Obligations.NopChangesNothing : Prop :=
  decode (.ctrl 0x00000000#32) = .ok .nop ∧ decode (.txn 0x8400000000#40) = .ok (.wrCtrl 0x00000000#32) ∧
  ∀ s : State, exec .nop s = .next { s with response := .written } ∧
    exec (.wrCtrl 0x00000000#32) s = .next { s with response := .written }

/-- INIT (R119): idle, H takes the IV, T and DONE are cleared, and nothing else changes; busy, the error BUSY is
recorded where ERR was 0, and nothing else changes. -/
def Obligations.InitLoadsInitialState : Prop :=
  decode (.ctrl 0x00000001#32) = .ok .init ∧ decode (.txn 0x8400000001#40) = .ok (.wrCtrl 0x00000001#32) ∧
  ∀ s : State, exec (.wrCtrl 0x00000001#32) s = exec .init s ∧
    (s.busy = false → exec .init s = .next { s with
      h := #v[0x67452301#32, 0xEFCDAB89#32, 0x98BADCFE#32, 0x10325476#32, 0xC3D2E1F0#32]
      t := 0, done := false, response := .written }) ∧
    (s.busy = true → s.err = false →
      exec .init s = .next { s with err := true, errcode := 2#3, response := .written }) ∧
    (s.busy = true → s.err = true → exec .init s = .next { s with response := .written })

/-- START accepted (R120): idle with every word of M written, the window takes M, the working registers take H, T,
WVALID and DONE are cleared and BUSY is set, in one step; nothing else changes. -/
def Obligations.StartBeginsBlock : Prop :=
  ∀ s : State, s.busy = false → s.wvalid = 0xFFFF#16 →
    exec .start s = .next { s with
      w := s.m, work := ⟨s.h[0], s.h[1], s.h[2], s.h[3], s.h[4]⟩, t := 0, wvalid := 0x0000#16, done := false,
      busy := true, response := .written }

/-- START refused (R246, and BUSY before it, R249): while idle with a word of M unwritten it records INCOMPLETE, while
busy BUSY whatever WVALID holds; the first error is kept, and nothing else changes: no block starts. -/
def Obligations.StartRefusals : Prop :=
  ∀ s : State,
    (s.busy = false → s.wvalid ≠ 0xFFFF#16 → s.err = false →
      exec .start s = .next { s with err := true, errcode := 3#3, response := .written }) ∧
    (s.busy = true → s.err = false →
      exec .start s = .next { s with err := true, errcode := 2#3, response := .written }) ∧
    ((s.busy = true ∨ s.wvalid ≠ 0xFFFF#16) → s.err = true → exec .start s = .next { s with response := .written })

/-- ABORT (R121): in every state BUSY, DONE and T are cleared, and nothing else changes: H, M, WVALID, W and A..E are
kept. -/
def Obligations.AbortStopsTheBlock : Prop :=
  decode (.ctrl 0x00000003#32) = .ok .abort ∧ decode (.txn 0x8400000003#40) = .ok (.wrCtrl 0x00000003#32) ∧
  ∀ s : State, exec .abort s = .next { s with busy := false, done := false, t := 0, response := .written } ∧
    exec (.wrCtrl 0x00000003#32) s = exec .abort s

/-- CLRSTAT (R122): in every state ERR, ERRCODE and DONE are cleared, and nothing else changes; `irq` is low after
it. -/
def Obligations.ClrstatClearsStatus : Prop :=
  decode (.ctrl 0x00000004#32) = .ok .clrstat ∧ decode (.txn 0x8400000004#40) = .ok (.wrCtrl 0x00000004#32) ∧
  ∀ s : State, exec (.wrCtrl 0x00000004#32) s = exec .clrstat s ∧
    exec .clrstat s = .next { s with err := false, errcode := 0, done := false, response := .written } ∧
    ∀ s', exec .clrstat s = .next s' → irq s' = false

/-- WR.CTRL (R117): a legal word performs its command; a word with a bit of 31:4 set, or with CMD at least 5, performs
none and records BADCMD, busy or not (R244). The write always completes. -/
def Obligations.WrCtrlPerformsCommand : Prop :=
  ∀ (data : Word) (s : State),
    decode (.txn (0x84#8 ++ data)) = .ok (.wrCtrl data) ∧
    (∀ i, decode (.ctrl data) = .ok i → exec (.wrCtrl data) s = exec i s) ∧
    ((data.extractLsb' 4 28 ≠ 0#28 ∨ 5 ≤ (data.extractLsb' 0 4).toNat) →
      decode (.ctrl data) = .reject .illegalCommand ∧
      (s.err = false → exec (.wrCtrl data) s = .next { s with err := true, errcode := 1#3, response := .written }) ∧
      (s.err = true → exec (.wrCtrl data) s = .next { s with response := .written })) ∧
    ∃ s', exec (.wrCtrl data) s = .next s' ∧ s'.response = .written

/-- R249: one write to CTRL or H reports exactly one outcome, checked in the order BADCMD, BUSY, INCOMPLETE. From a state
with no error recorded, ERRCODE after the write is the first of them that applies, and 0 where none does; where an error
is recorded, every write but CLRSTAT keeps its code, the earliest in time. -/
def Obligations.CommandErrorsByPriority : Prop :=
  (∀ s : State, s.err = false → s.errcode = 0 →
    (∀ data : Word, ∃ s', exec (.wrCtrl data) s = .next s' ∧ s'.errcode =
      (if 5 ≤ data.toNat then 1#3
       else if (data = 1 ∨ data = 2) ∧ s.busy = true then 2#3
       else if data = 2 ∧ s.wvalid ≠ 0xFFFF#16 then 3#3
       else 0#3)) ∧
    (∀ data : Word, ∀ i ∈ [Instr.wrH0 data, .wrH1 data, .wrH2 data, .wrH3 data, .wrH4 data],
      ∃ s', exec i s = .next s' ∧ s'.errcode = if s.busy = true then 2#3 else 0#3)) ∧
  ∀ s : State, s.err = true →
    (∀ data : Word, data ≠ 4 → ∃ s', exec (.wrCtrl data) s = .next s' ∧ s'.err = true ∧ s'.errcode = s.errcode) ∧
    (∀ data : Word, ∀ i ∈ [Instr.wrH0 data, .wrH1 data, .wrH2 data, .wrH3 data, .wrH4 data],
      ∃ s', exec i s = .next s' ∧ s'.err = true ∧ s'.errcode = s.errcode)

/-- WR.IRQEN (R123): the enables take DATA[0] and DATA[1], the rest of DATA is ignored, nothing else changes, and `irq`
follows at once. -/
def Obligations.IrqenWrite : Prop :=
  (∀ data : Word, decode (.txn (0x8C#8 ++ data)) = .ok (.wrIrqen data)) ∧
  ∀ (data : Word) (s : State),
    exec (.wrIrqen data) s =
      .next { s with doneIe := data.getLsbD 0, errIe := data.getLsbD 1, response := .written } ∧
    ∀ s', exec (.wrIrqen data) s = .next s' →
      irq s' = ((s.done && data.getLsbD 0) || (s.err && data.getLsbD 1))

/-- WR.H0..WR.H4 (R124): idle, that one H takes DATA whole and nothing else changes, DONE neither; busy, H is
unchanged and BUSY is recorded where ERR was 0. -/
def Obligations.HWrites : Prop :=
  (∀ data : Word,
    decode (.txn (0x90#8 ++ data)) = .ok (.wrH0 data) ∧ decode (.txn (0x94#8 ++ data)) = .ok (.wrH1 data) ∧
    decode (.txn (0x98#8 ++ data)) = .ok (.wrH2 data) ∧ decode (.txn (0x9C#8 ++ data)) = .ok (.wrH3 data) ∧
    decode (.txn (0xA0#8 ++ data)) = .ok (.wrH4 data)) ∧
  ∀ (data : Word) (s : State),
    (s.busy = false →
      exec (.wrH0 data) s = .next { s with h := #v[data, s.h[1], s.h[2], s.h[3], s.h[4]], response := .written } ∧
      exec (.wrH1 data) s = .next { s with h := #v[s.h[0], data, s.h[2], s.h[3], s.h[4]], response := .written } ∧
      exec (.wrH2 data) s = .next { s with h := #v[s.h[0], s.h[1], data, s.h[3], s.h[4]], response := .written } ∧
      exec (.wrH3 data) s = .next { s with h := #v[s.h[0], s.h[1], s.h[2], data, s.h[4]], response := .written } ∧
      exec (.wrH4 data) s = .next { s with h := #v[s.h[0], s.h[1], s.h[2], s.h[3], data], response := .written }) ∧
    (s.busy = true → ∀ i ∈ [Instr.wrH0 data, .wrH1 data, .wrH2 data, .wrH3 data, .wrH4 data],
      exec i s = .next { s with
        err := true, errcode := if s.err then s.errcode else 2#3, response := .written })

/-- WR.M (R125): in every state, busy too, M[j] takes DATA and WVALID[j] is set; the other words of M, the other bits of
WVALID and everything else are kept. -/
def Obligations.MWrites : Prop :=
  ∀ (j : Fin 16) (data : Word) (s : State),
    decode (.txn (BitVec.ofNat 8 (0xC0 + 4 * j.val) ++ data)) = .ok (.wrM j data) ∧
    ∃ s', exec (.wrM j data) s = .next s' ∧
      s'.m[j] = data ∧ (∀ k : Fin 16, k ≠ j → s'.m[k] = s.m[k]) ∧
      (∀ k : Fin 16, s'.wvalid.getLsbD k.val = (decide (k = j) || s.wvalid.getLsbD k.val)) ∧
      s' = { s with m := s'.m, wvalid := s'.wvalid, response := .written }

/-- WR.RO.ID and WR.RO.STATUS (R126): a bus error, DATA ignored, no register changed and no command error recorded. -/
def Obligations.ReadOnlyWrites : Prop :=
  (∀ data : Word, decode (.txn (0x80#8 ++ data)) = .ok (.wrRoId data) ∧
    decode (.txn (0x88#8 ++ data)) = .ok (.wrRoStatus data)) ∧
  ∀ (data : Word) (s : State),
    exec (.wrRoId data) s = .next { s with response := .busError 0x00#7 } ∧
    exec (.wrRoStatus data) s = .next { s with response := .busError 0x08#7 }

/-- ACC.RSVD (R127): a read or a write of a reserved offset is a bus error, and no state changes. -/
def Obligations.ReservedAccesses : Prop :=
  ∀ (dir : Dir) (data : Word) (s : State),
    exec (.accRsvd24 dir data) s = .next { s with response := .busError 0x24#7 } ∧
    exec (.accRsvd28 dir data) s = .next { s with response := .busError 0x28#7 } ∧
    exec (.accRsvd2C dir data) s = .next { s with response := .busError 0x2C#7 } ∧
    exec (.accRsvd30 dir data) s = .next { s with response := .busError 0x30#7 } ∧
    exec (.accRsvd34 dir data) s = .next { s with response := .busError 0x34#7 } ∧
    exec (.accRsvd38 dir data) s = .next { s with response := .busError 0x38#7 } ∧
    exec (.accRsvd3C dir data) s = .next { s with response := .busError 0x3C#7 }

/-- R248: the four causes of a bus error and no other, whatever the state: for a well-formed record the step goes on,
its answer is a bus error exactly when a cause applies, and then nothing but the answer changes. -/
def Obligations.BusErrorsExactlyFourCauses : Prop :=
  ∀ (s : State) (t : Txn) (rest : List Event), s.pending = .host t :: rest → wellFormedRecord t.record = true →
    let off := (recordOff t.record).toNat
    let cause := t.size ≠ .four ∨ off % 4 ≠ 0 ∨ (0x24 ≤ off ∧ off ≤ 0x3C) ∨
      (recordDir t.record = .write ∧ (off = 0x00 ∨ off = 0x08))
    ∃ s', step s = .next s' ∧
      (cause → s' = { s with pending := rest, response := .busError (recordOff t.record) }) ∧
      (¬cause → s'.response = .written ∨ ∃ v, s'.response = .value v)

/-- A write is visible to the very next read (R284): M in every state, H while idle, IRQEN in its two bits. -/
def Obligations.WriteThenReadReturnsIt : Prop :=
  ∀ (s : State) (v : Word) (rest : List Event),
    (∀ j : Fin 16, s.pending = .host (wrReg (.m j) v) :: .host (rdReg (.m j)) :: rest →
      ∃ s', run 2 s = .next s' ∧ s'.response = .value v) ∧
    (∀ i : Fin 5, s.busy = false → s.pending = .host (wrReg (.h i) v) :: .host (rdReg (.h i)) :: rest →
      ∃ s', run 2 s = .next s' ∧ s'.response = .value v) ∧
    (s.pending = .host (wrReg .irqen v) :: .host (rdReg .irqen) :: rest →
      ∃ s', run 2 s = .next s' ∧ s'.response = .value (v &&& 3#32))

/-! ### The datapath -/

/-- F_SEL, F_XOR and F_MAJ (R171, R172, R173): their formulas, and bit by bit. -/
def Obligations.BooleanFunctionsBitwise : Prop :=
  ∀ b c d : Word,
    boolFn .sel b c d = (b &&& c) ||| (~~~b &&& d) ∧
    boolFn .xor b c d = b ^^^ c ^^^ d ∧
    boolFn .maj b c d = (b &&& c) ||| (b &&& d) ||| (c &&& d) ∧
    ∀ k, k < 32 →
      (boolFn .sel b c d).getLsbD k = (if b.getLsbD k then c.getLsbD k else d.getLsbD k) ∧
      (boolFn .xor b c d).getLsbD k = (b.getLsbD k ^^ (c.getLsbD k ^^ d.getLsbD k)) ∧
      (boolFn .maj b c d).getLsbD k = decide (2 ≤ (b.getLsbD k).toNat + (c.getLsbD k).toNat + (d.getLsbD k).toNat)

/-- ROTL32 (R9): for 0 < n < 32 it is `(x << n) | (x >> (32 - n))`, and bit i moves to bit (i + n) mod 32, so no bit is
lost. -/
def Obligations.RotationKeepsEveryBit : Prop :=
  ∀ (x : Word) (n : Nat) (hn : 0 < n ∧ n < 32),
    rotl32 x n hn = (x <<< n) ||| (x >>> (32 - n)) ∧
    ∀ i, i < 32 → (rotl32 x n hn).getLsbD ((i + n) % 32) = x.getLsbD i

/-- R150: the schedule is the block's words, then the XOR-rotate recurrence. -/
def Obligations.ScheduleFollowsRecurrence : Prop :=
  ∀ m : Vector Word 16,
    (∀ t : Fin 16, schedule m t.val = m[t]) ∧
    (∀ t : Nat, 16 ≤ t → t < 80 → schedule m t =
      (schedule m (t - 3) ^^^ schedule m (t - 8) ^^^ schedule m (t - 14) ^^^ schedule m (t - 16)).rotateLeft 1)

/-- R153, R154: the 16-word window yields the document's 80-word schedule. Loaded from M it holds the block; if it holds
the schedule words before round t, then `sched_word(t)` returns S[t], and the window holds the schedule words before
round t + 1. -/
def Obligations.ExpanderYieldsSchedule : Prop :=
  ∀ m : Vector Word 16,
    windowHolds m 0 m ∧
    ∀ (t : BitVec 7) (w : Vector Word 16), t.toNat < 80 → windowHolds m t.toNat w →
      schedWord (decide (16 ≤ t.toNat)) t w = schedule m t.toNat ∧
      windowHolds m (t.toNat + 1) (schedWindow (decide (16 ≤ t.toNat)) t w)

/-- RND.SEL.K0 (R182): while a round is enabled, A..E take the round sum with F_SEL, 0x5A827999 and the window's own word
W[t mod 16], W is not written, T advances, and nothing else changes. -/
def Obligations.RoundWithoutExpansion : Prop :=
  ∀ s : State, s.busy = true → s.t.toNat < 80 →
    exec .rndSelK0 s = .next { s with
      work := ⟨s.work.a.rotateLeft 5 + ((s.work.b &&& s.work.c) ||| (~~~s.work.b &&& s.work.d)) + s.work.e
          + 0x5A827999#32 + s.w[s.t.toNat % 16],
        s.work.a, s.work.b.rotateLeft 30, s.work.c, s.work.d⟩
      t := s.t + 1 }

/-- RND.SEL.K0.X, RND.XOR.K1.X, RND.MAJ.K2.X and RND.XOR.K3.X (R183 to R186): while a round is enabled, the expander
writes slot t mod 16 with the rotated XOR of the four taps, A..E take the round sum with that word and the row's own
function and constant, T advances, and nothing else changes. -/
def Obligations.RoundsWithExpansion : Prop :=
  ∀ s : State, s.busy = true → s.t.toNat < 80 →
    let q := s.work
    let wt := (s.w[(s.t.toNat + 13) % 16] ^^^ s.w[(s.t.toNat + 8) % 16] ^^^ s.w[(s.t.toNat + 2) % 16]
      ^^^ s.w[s.t.toNat % 16]).rotateLeft 1
    let after := fun f k : Word => { s with
      w := s.w.set (s.t.toNat % 16) wt
      work := ⟨q.a.rotateLeft 5 + f + q.e + k + wt, q.a, q.b.rotateLeft 30, q.c, q.d⟩
      t := s.t + 1 }
    exec .rndSelK0X s = .next (after ((q.b &&& q.c) ||| (~~~q.b &&& q.d)) 0x5A827999#32) ∧
    exec .rndXorK1X s = .next (after (q.b ^^^ q.c ^^^ q.d) 0x6ED9EBA1#32) ∧
    exec .rndMajK2X s =
      .next (after ((q.b &&& q.c) ||| (q.b &&& q.d) ||| (q.c &&& q.d)) 0x8F1BBCDC#32) ∧
    exec .rndXorK3X s = .next (after (q.b ^^^ q.c ^^^ q.d) 0xCA62C1D6#32)

/-- R181: the engine's turn in phase ROUND is the round step, its function, constant and expansion taken from the fields
of ROM[T], for every ROM without a reserved word; it writes W (where EXP = 1), A..E and T and nothing else. The engine runs no round
while idle or with T = 80. -/
def Obligations.RoundStepFollowsRomWord : Prop :=
  (∀ s s0 : State, s.engineTurn s0 → s.busy = true → ∀ inRom : s.t.toNat < 80,
    (∀ t : Fin 80, s.rom[t] ∈ [0x00#8, 0x10#8, 0x15#8, 0x1A#8, 0x1D#8]) →
    let word := s.rom[s.t.toNat]
    let wt := schedWord (word.getLsbD 4) s.t s.w
    ∃ f, romFsel word = some f ∧
      step s = .next { s0 with
        w := schedWindow (word.getLsbD 4) s.t s.w
        work := ⟨s.work.a.rotateLeft 5 + boolFn f s.work.b s.work.c s.work.d + s.work.e
            + ktab (word.extractLsb' 2 2) + wt,
          s.work.a, s.work.b.rotateLeft 30, s.work.c, s.work.d⟩
        t := s.t + 1 }) ∧
  ∀ s s0 : State, s.engineTurn s0 → (s.busy = false ∨ s.t = 80#7) →
    ∃ s', step s = .next s' ∧ s'.work = s.work ∧ s'.w = s.w ∧ s'.t = s.t

/-- A round or FIN applied where R23 does not enable it (the model's own case, log entry 10): refused by name while idle
or in the other phase, and a fault where T is out of range while busy. -/
def Obligations.MicroOpsOnlyWhenEnabled : Prop :=
  ∀ s : State,
    (∀ i ∈ [Instr.rndSelK0, .rndSelK0X, .rndXorK1X, .rndMajK2X, .rndXorK3X],
      ((s.busy = false ∨ s.t.toNat = 80) → exec i s = .refused .engineNotEnabled) ∧
      (s.busy = true → 80 < s.t.toNat → exec i s = .fault .roundCounterOutOfRange)) ∧
    ((s.busy = false ∨ s.t.toNat < 80) → exec .fin s = .refused .engineNotEnabled) ∧
    (s.busy = true → 80 < s.t.toNat → exec .fin s = .fault .roundCounterOutOfRange)

/-- FIN (R204): A..E are added into H component by component, mod 2^32, BUSY falls and DONE rises, T stays 80, and
nothing else changes; no engine step is enabled after it. -/
def Obligations.FinalizeAddsIntoH : Prop :=
  ∀ s : State, s.busy = true → s.t = 80#7 →
    exec .fin s = .next { s with
      h := #v[s.h[0] + s.work.a, s.h[1] + s.work.b, s.h[2] + s.work.c, s.h[3] + s.work.d, s.h[4] + s.work.e]
      busy := false, done := true } ∧
    ∀ s', exec .fin s = .next s' → s'.t = 80#7 ∧ s'.phase = .idle

/-- R29: `irq = (STATUS.DONE & IRQEN.DONE_IE) | (STATUS.ERR & IRQEN.ERR_IE)`, and two states that agree in these four
bits agree in `irq`. -/
def Obligations.IrqFollowsEnabledCauses : Prop :=
  (∀ s : State, irq s = true ↔ (s.done = true ∧ s.doneIe = true) ∨ (s.err = true ∧ s.errIe = true)) ∧
  (∀ s s' : State, s.done = s'.done → s.doneIe = s'.doneIe → s.err = s'.err → s.errIe = s'.errIe → irq s = irq s')

/-! ### The whole machine -/

/-- The invariant holds at reset. -/
def Obligations.InvariantHoldsAtReset : Prop := State.reset.Inv

/-- Every step of every agent keeps the invariant: T is 0..80 and is 0 or 80 while idle, DONE is 1 only after a finalize
step, ERRCODE is a legal code and is 0 exactly when ERR is, and the control ROM is the table of R176. -/
def Obligations.StepKeepsInvariant : Prop :=
  ∀ s s' : State, s.Inv → step s = .next s' → s'.Inv

/-- From a state that meets the invariant, a step on an event the hardware may meet always answers a next state: no
access, no command and no micro-operation stops the machine (R240). -/
def Obligations.LegalStepGoesOn : Prop :=
  ∀ s : State, s.Inv → (∀ e ∈ s.pending.head?, e.legal = true) → ∃ s', step s = .next s'

/-- R27: four things write H, and no round does: INIT while idle, a host write to H[i] while idle, the finalize step, and
reset. -/
def Obligations.OnlyFourThingsWriteH : Prop :=
  ∀ s s' : State, step s = .next s' → s'.h ≠ s.h →
    s.resets = true ∨
    (s.runs = some .fin ∧ s.busy = true ∧ s.t = 80#7) ∨
    (s.busy = false ∧ (s.runs = some (.wrCtrl 0x00000001#32) ∨ ∃ e ∈ s.pending.head?, e.writesH))

/-- R24, R25: M changes only by a host write to it and by reset; a bit of WVALID rises only by a host write to that word,
and falls only by an accepted START or by reset. -/
def Obligations.MessageBufferWriters : Prop :=
  ∀ s s' : State, step s = .next s' →
    (∀ j : Fin 16, s'.m[j] ≠ s.m[j] → s.resets = true ∨ ∃ data, s.runs = some (.wrM j data) ∧ s'.m[j] = data) ∧
    (∀ j : Fin 16, s.wvalid.getLsbD j.val = false → s'.wvalid.getLsbD j.val = true →
      ∃ data, s.runs = some (.wrM j data)) ∧
    (∀ j : Fin 16, s.wvalid.getLsbD j.val = true → s'.wvalid.getLsbD j.val = false →
      s.resets = true ∨
        (s.runs = some (.wrCtrl 0x00000002#32) ∧ s.busy = false ∧ s.wvalid = 0xFFFF#16 ∧ s'.wvalid = 0#16))

/-- R128: T advances by 1 in a round; every other write of it is T <- 0, by START, INIT, ABORT or reset. -/
def Obligations.RoundCounterWriters : Prop :=
  ∀ s s' : State, step s = .next s' → s'.t ≠ s.t →
    (s.busy = true ∧ s.t.toNat < 80 ∧ s'.t = s.t + 1 ∧
      ∃ i ∈ [Instr.rndSelK0, .rndSelK0X, .rndXorK1X, .rndMajK2X, .rndXorK3X], s.runs = some i) ∨
    (s'.t = 0 ∧ (s.resets = true ∨
      ∃ w ∈ [0x00000001#32, 0x00000002#32, 0x00000003#32], s.runs = some (.wrCtrl w)))

/-- R34, R35: BUSY rises only by an accepted START and falls only by the finalize step, ABORT or reset; DONE rises only
by the finalize step and falls only by an accepted START, an accepted INIT, ABORT, CLRSTAT or reset. -/
def Obligations.BusyAndDoneWriters : Prop :=
  ∀ s s' : State, step s = .next s' →
    (s.busy = false → s'.busy = true → s.runs = some (.wrCtrl 0x00000002#32) ∧ s.wvalid = 0xFFFF#16) ∧
    (s.busy = true → s'.busy = false →
      s.resets = true ∨ s.runs = some .fin ∨ s.runs = some (.wrCtrl 0x00000003#32)) ∧
    (s.done = false → s'.done = true → s.runs = some .fin) ∧
    (s.done = true → s'.done = false →
      s.resets = true ∨
      (s.runs = some (.wrCtrl 0x00000002#32) ∧ s.busy = false ∧ s.wvalid = 0xFFFF#16) ∨
      (s.runs = some (.wrCtrl 0x00000001#32) ∧ s.busy = false) ∨
      s.runs = some (.wrCtrl 0x00000003#32) ∨ s.runs = some (.wrCtrl 0x00000004#32))

/-- R36, R37, R253: once ERR is 1 it stays 1 and ERRCODE keeps the first error, until CLRSTAT or reset. -/
def Obligations.FirstErrorIsKept : Prop :=
  ∀ s s' : State, step s = .next s' → s.err = true →
    (s'.err = true ∧ s'.errcode = s.errcode) ∨ s.resets = true ∨ s.runs = some (.wrCtrl 0x00000004#32)

/-- R26, R28, R40, R189: what the host cannot reach. W and A..E change only by an accepted START, by the engine's own
micro-operations while busy, and by reset; the ROM never changes; IRQEN changes only by a host write to it and by
reset. -/
def Obligations.EngineStateWriters : Prop :=
  ∀ s s' : State, step s = .next s' →
    s'.rom = s.rom ∧
    ((s'.w ≠ s.w ∨ s'.work ≠ s.work) →
      s.resets = true ∨ (s.runs = some (.wrCtrl 0x00000002#32) ∧ s.busy = false ∧ s'.w = s.m) ∨
      (s.busy = true ∧ s.t.toNat < 80 ∧ s'.t = s.t + 1)) ∧
    ((s'.doneIe ≠ s.doneIe ∨ s'.errIe ≠ s.errIe) →
      s.resets = true ∨ ∃ data, s.runs = some (.wrIrqen data))

/-! ### Interleavings -/

/-- R71: once the engine is idle, H keeps its value through any interleaving of engine turns and host accesses, until the
host itself changes H (INIT, or a write to H), starts a block, or resets. A START that finds a word of M unwritten
starts no block, and is among the accesses. -/
def Obligations.IdleKeepsDigest : Prop :=
  ∀ (s : State) (evs rest : List Event), s.busy = false → s.pending = evs ++ rest →
    (∀ e ∈ evs, e ≠ .reset ∧ e.legal = true ∧ ¬e.writesH ∧
      e.asks ≠ some (.wrCtrl 0x00000001#32)) →
    (∀ k : Fin evs.length, evs[k].asks = some (.wrCtrl 0x00000002#32) →
      ∀ before, run k.val s = .next before → before.wvalid ≠ 0xFFFF#16) →
    ∃ s', run evs.length s = .next s' ∧ s'.h = s.h ∧ s'.busy = false ∧ s'.pending = rest

/-- R283, R205, R131: after an accepted START, exactly 81 turns of the engine (80 rounds and FIN) put
H + compress(H, M) of the document's algorithm into H, whatever accesses the host interleaves with them (writes to M, to
H, to IRQEN, refused commands, bus errors), as long as it neither ABORTs nor resets; and until the last turn H is
unchanged and the block is not done. -/
def Obligations.StartThenEightyOneTurns : Prop :=
  ∀ (s : State) (evs rest : List Event),
    s.rom = romTable → s.busy = false → s.wvalid = 0xFFFF#16 →
    s.pending = .host (wrReg .ctrl 0x00000002#32) :: evs ++ .engine :: rest →
    engineTurns evs = 80 →
    (∀ e ∈ evs, e ≠ .reset ∧ e.legal = true ∧ e.asks ≠ some (.wrCtrl 0x00000003#32)) →
    (∃ s1, run (1 + evs.length) s = .next s1 ∧ s1.h = s.h ∧ s1.busy = true ∧ s1.done = false ∧ s1.t = 80#7) ∧
    ∃ s2, run (1 + evs.length + 1) s = .next s2 ∧ s2.h = docBlock s.h s.m ∧ s2.busy = false ∧ s2.done = true ∧
      s2.t = 80#7 ∧ s2.pending = rest

/-- R251: the races of a host access with the finalize step, each order with its own outcome. ABORT after FIN leaves the
block complete, ABORT before it leaves H as it was; START after FIN is accepted, START before it is refused with BUSY; a
read of H0 answers the new value or the old one. -/
def Obligations.RacesAdmitBothOrders : Prop :=
  ∀ (s : State) (rest : List Event), s.busy = true → s.t = 80#7 →
    let abort := Event.host (wrReg .ctrl 0x00000003#32)
    let start := Event.host (wrReg .ctrl 0x00000002#32)
    let read := Event.host (rdReg (.h 0))
    let h' := #v[s.h[0] + s.work.a, s.h[1] + s.work.b, s.h[2] + s.work.c, s.h[3] + s.work.d, s.h[4] + s.work.e]
    (s.pending = .engine :: abort :: rest →
      ∃ s', run 2 s = .next s' ∧ s'.h = h' ∧ s'.done = false ∧ s'.busy = false ∧ s'.t = 0) ∧
    (s.pending = abort :: .engine :: rest →
      ∃ s', run 2 s = .next s' ∧ s'.h = s.h ∧ s'.done = false ∧ s'.busy = false ∧ s'.t = 0) ∧
    (s.pending = .engine :: start :: rest → s.wvalid = 0xFFFF#16 →
      ∃ s', run 2 s = .next s' ∧ s'.h = h' ∧ s'.work = workOf h' ∧ s'.busy = true ∧ s'.t = 0) ∧
    (s.pending = start :: .engine :: rest → s.err = false →
      ∃ s', run 2 s = .next s' ∧ s'.h = h' ∧ s'.busy = false ∧ s'.err = true ∧ s'.errcode = 2#3) ∧
    (s.pending = .engine :: read :: rest →
      ∃ s', run 2 s = .next s' ∧ s'.response = .value (s.h[0] + s.work.a)) ∧
    (s.pending = read :: .engine :: rest →
      ∃ s', run 2 s = .next s' ∧ s'.response = .value s.h[0] ∧ s'.h = h')

/-! ### The host procedure -/

/-- R221: the padded stream, as bits: the message, one 1 bit, the minimum number of 0 bits that brings the length to
448 mod 512, and the 64-bit big-endian bit length; its length is a multiple of 512 bits. -/
def Obligations.PaddingFollowsRule : Prop :=
  ∀ msg : List Byte, inputTooLarge msg = false →
    ∃ k, bitsOf (padMessage msg) =
        bitsOf msg ++ [true] ++ List.replicate k false
          ++ (List.range 64).map (fun i => (8 * msg.length).testBit (63 - i)) ∧
      (8 * msg.length + 1 + k) % 512 = 448 ∧ (∀ k', (8 * msg.length + 1 + k') % 512 = 448 → k ≤ k') ∧
      (bitsOf (padMessage msg)).length % 512 = 0

/-- R227, R224: the padded stream has floor((L + 8) / 64) + 1 blocks of 64 bytes; word j of block k is made of the bytes
64k + 4j to 64k + 4j + 3, the first in bits 31:24; and the last two words of the last block are the bit length. -/
def Obligations.BlocksAndWords : Prop :=
  ∀ msg : List Byte,
    (padMessage msg).length = 64 * ((msg.length + 8) / 64 + 1) ∧
    (messageBlocks msg).length = (msg.length + 8) / 64 + 1 ∧
    (∀ k, k < (msg.length + 8) / 64 + 1 → (messageBlocks msg)[k]? = some (blockWords (padMessage msg) k)) ∧
    (∀ (k : Nat) (j : Fin 16), (blockWords (padMessage msg) k)[j] =
      ((((padMessage msg).getD (64 * k + 4 * j.val) 0).setWidth 32) <<< 24)
        ||| ((((padMessage msg).getD (64 * k + 4 * j.val + 1) 0).setWidth 32) <<< 16)
        ||| ((((padMessage msg).getD (64 * k + 4 * j.val + 2) 0).setWidth 32) <<< 8)
        ||| (((padMessage msg).getD (64 * k + 4 * j.val + 3) 0).setWidth 32)) ∧
    (inputTooLarge msg = false → ∀ last ∈ (messageBlocks msg).getLast?,
      last[14] = BitVec.ofNat 32 (8 * msg.length / 2 ^ 32) ∧ last[15] = BitVec.ofNat 32 (8 * msg.length))

/-- R225: the digest string has exactly 40 characters, each one of 0-9 and a-f, and reads back, word by word and most
significant digit first, as H0 to H4. -/
def Obligations.DigestRendering : Prop :=
  ∀ h : Vector Word 5,
    (renderDigest h).length = 40 ∧
    (∀ c ∈ renderDigest h,
      c ∈ ['0', '1', '2', '3', '4', '5', '6', '7', '8', '9', 'a', 'b', 'c', 'd', 'e', 'f']) ∧
    ∀ i : Fin 5, hexNumber 0 (((renderDigest h).drop (8 * i.val)).take 8) = some h[i].toNat

/-- R226, R205, R206, R274: a complete `sha1` call by the driver, in each form R226 allows (polling or waiting on `irq`; a
block loaded after the one before it, or while it runs), answers the digest of the document's algorithm: from any state
that meets the invariant with no error recorded, and after the boot of R274 (waiting for a block in flight, or aborting
it) from any state that meets the invariant, with or without an error recorded. So for every interleaving in which any
`fuel` consecutive acts of the host leave the engine 81 turns; accesses with no turn between them are among these. A
message whose bit length needs more than 64 bits fails with InputTooLarge before any access (R223). The fuel, the `gap`
and details of the driver are log entries 12, 20 and 21. -/
def Obligations.DriverComputesDigest : Prop :=
  ∀ (form : CallForm) (gap : Nat → Nat) (fuel : Nat) (msg : List Byte) (s : State),
    s.Inv → (∀ n, 81 ≤ ((List.range fuel).map fun k => gap (n + k)).sum) →
    let digest := renderDigest (docChain
      #v[0x67452301#32, 0xEFCDAB89#32, 0x98BADCFE#32, 0x10325476#32, 0xC3D2E1F0#32] (messageBlocks msg))
    (2 ^ 64 ≤ 8 * msg.length →
      sha1Call form gap fuel msg s = .error .inputTooLarge ∧
      ∀ how, bootedCall how form gap fuel msg s = .error .inputTooLarge) ∧
    (8 * msg.length < 2 ^ 64 →
      (s.err = false → sha1Call form gap fuel msg s = .ok digest) ∧
      ∀ how, bootedCall how form gap fuel msg s = .ok digest)

/-- R283, R226, R229, R274: under weak fairness alone, in which the engine always gets a turn again but no bound is known,
a complete `sha1` call in each form, with no error recorded or after the boot, ends with the digest, for every
sufficiently large fuel of its wait loops; so the interleaving cannot change the digest. -/
def Obligations.DriverEndsUnderFairness : Prop :=
  ∀ (form : CallForm) (gap : Nat → Nat) (msg : List Byte) (s : State),
    s.Inv → (∀ n, ∃ k, n ≤ k ∧ 1 ≤ gap k) → 8 * msg.length < 2 ^ 64 →
    let digest := renderDigest (docChain
      #v[0x67452301#32, 0xEFCDAB89#32, 0x98BADCFE#32, 0x10325476#32, 0xC3D2E1F0#32] (messageBlocks msg))
    ∃ enough, ∀ fuel, enough ≤ fuel →
      (s.err = false → sha1Call form gap fuel msg s = .ok digest) ∧
      ∀ how, bootedCall how form gap fuel msg s = .ok digest
end

