-- ==== Sys2Proof/Laws/Decode.lean ====
section
/-! SUPPORT. The fields of a transaction record: taking apart what was put together, and the other way round. -/

namespace Sys2Proof

/-- The bits of a record, field by field. -/
theorem mkRecord_getLsbD (dir : Dir) (off : BitVec 7) (data : Word) (i : Nat) :
    (mkRecord dir off data).getLsbD i =
      if i < 32 then data.getLsbD i else if i < 39 then off.getLsbD (i - 32) else (dirBit dir).getLsbD (i - 39) := by
  have outer : (mkRecord dir off data).getLsbD i =
      if i < 32 then data.getLsbD i else (dirBit dir ++ off).getLsbD (i - 32) :=
    BitVec.getLsbD_append (x := dirBit dir ++ off) (y := data) (i := i)
  have inner : (dirBit dir ++ off).getLsbD (i - 32) =
      if i - 32 < 7 then off.getLsbD (i - 32) else (dirBit dir).getLsbD (i - 32 - 7) :=
    BitVec.getLsbD_append (x := dirBit dir) (y := off) (i := i - 32)
  rw [outer, inner, Nat.sub_sub]
  split
  · rfl
  · simp only [show (i - 32 < 7) = (i < 39) from propext ⟨fun _ => by omega, fun _ => by omega⟩]

@[simp] theorem recordOff_mkRecord (dir : Dir) (off : BitVec 7) (data : Word) :
    recordOff (mkRecord dir off data) = off := by
  apply BitVec.eq_of_getLsbD_eq
  intro i hi
  simp only [recordOff, BitVec.getLsbD_extractLsb', mkRecord_getLsbD]
  simp [hi, show 32 + i < 39 by omega]

@[simp] theorem recordData_mkRecord (dir : Dir) (off : BitVec 7) (data : Word) :
    recordData (mkRecord dir off data) = data := by
  apply BitVec.eq_of_getLsbD_eq
  intro i hi
  simp [recordData, mkRecord_getLsbD, hi]

@[simp] theorem recordDir_mkRecord (dir : Dir) (off : BitVec 7) (data : Word) :
    recordDir (mkRecord dir off data) = dir := by
  have bit : (mkRecord dir off data).extractLsb' 39 1 = dirBit dir := by
    apply BitVec.eq_of_getLsbD_eq
    intro i hi
    simp [mkRecord_getLsbD, hi]
    omega
  unfold recordDir
  rw [bit]
  cases dir <;> rfl

/-- A record is what its fields make. -/
theorem mkRecord_fields (r : BitVec 40) : mkRecord (recordDir r) (recordOff r) (recordData r) = r := by
  have bit : dirBit (recordDir r) = r.extractLsb' 39 1 := by
    unfold recordDir
    split
    · next h => exact h.symm
    · next h =>
      have := (r.extractLsb' 39 1).isLt
      apply BitVec.eq_of_toNat_eq
      have h' : (r.extractLsb' 39 1).toNat ≠ 1 := fun he => h (BitVec.eq_of_toNat_eq he)
      simp only [dirBit]
      simp at *
      omega
  apply BitVec.eq_of_getLsbD_eq
  intro i hi
  rw [mkRecord_getLsbD, bit]
  simp only [recordOff, recordData, BitVec.getLsbD_extractLsb']
  split
  · next h => simp [h]
  · split
    · simp [show i - 32 < 7 by omega, show 32 + (i - 32) = i by omega]
    · simp [show i - 39 < 1 by omega, show 39 + (i - 39) = i by omega]

/-- Well-formedness of a record is that of its RW and DATA fields. -/
@[simp] theorem wellFormedRecord_mkRecord (dir : Dir) (off : BitVec 7) (data : Word) :
    wellFormedRecord (mkRecord dir off data) = dataFits dir data := by
  simp [wellFormedRecord]

/-- Decoding a record that fits, at an aligned offset, with SIZE = 4. -/
theorem decodeTxn_mkRecord (dir : Dir) (off : BitVec 7) (data : Word) (hFits : dataFits dir data = true)
    (hAligned : off.extractLsb' 0 2 = 0#2) :
    decodeTxn (mkRecord dir off data) .four = .ok (accessInstr dir (windowReg off) data) := by
  simp [decodeTxn, hFits, hAligned]

/-- The offset of a register names that register. -/
theorem windowReg_regOffset : ∀ reg : WindowReg, windowReg (regOffset reg) = reg := by
  intro reg
  cases reg with
  | id => decide
  | ctrl => decide
  | status => decide
  | irqen => decide
  | h i => revert i; decide
  | rsvd k => revert k; decide
  | m j => revert j; decide

/-- The offset of a register is aligned. -/
theorem regOffset_aligned : ∀ reg : WindowReg, (regOffset reg).extractLsb' 0 2 = 0#2 := by
  intro reg
  cases reg with
  | id => decide
  | ctrl => decide
  | status => decide
  | irqen => decide
  | h i => revert i; decide
  | rsvd k => revert k; decide
  | m j => revert j; decide

/-- What a transaction can decode to: a rejection by one of three names, or its access. -/
theorem decodeTxn_cases (r : BitVec 40) (size : AccessSize) :
    (wellFormedRecord r = false ∧ decodeTxn r size = .reject .readWithData) ∨
    (wellFormedRecord r = true ∧ size ≠ .four ∧ decodeTxn r size = .reject .sizeNotFour) ∨
    (wellFormedRecord r = true ∧ size = .four ∧ (recordOff r).extractLsb' 0 2 ≠ 0#2 ∧
      decodeTxn r size = .reject .misaligned) ∨
    (wellFormedRecord r = true ∧ size = .four ∧ (recordOff r).extractLsb' 0 2 = 0#2 ∧
      decodeTxn r size = .ok (accessInstr (recordDir r) (windowReg (recordOff r)) (recordData r))) := by
  unfold decodeTxn
  cases hw : wellFormedRecord r <;> by_cases hs : size = .four <;>
    by_cases ha : (recordOff r).extractLsb' 0 2 = 0#2 <;> simp [hs, ha]

end Sys2Proof
end

