-- ==== Sys2Proof/Laws/State.lean ====
section
/-! SUPPORT. One lemma per field per named update of State, true by rfl, so that no proof unfolds a record update. -/

namespace Sys2Proof.Machine

/-! ### answerRead -/

@[simp] theorem answerRead_work (v : Word) (s : State) : (answerRead v s).work = s.work := rfl
@[simp] theorem answerRead_t (v : Word) (s : State) : (answerRead v s).t = s.t := rfl
@[simp] theorem answerRead_m (v : Word) (s : State) : (answerRead v s).m = s.m := rfl
@[simp] theorem answerRead_wvalid (v : Word) (s : State) : (answerRead v s).wvalid = s.wvalid := rfl
@[simp] theorem answerRead_w (v : Word) (s : State) : (answerRead v s).w = s.w := rfl
@[simp] theorem answerRead_h (v : Word) (s : State) : (answerRead v s).h = s.h := rfl
@[simp] theorem answerRead_rom (v : Word) (s : State) : (answerRead v s).rom = s.rom := rfl
@[simp] theorem answerRead_busy (v : Word) (s : State) : (answerRead v s).busy = s.busy := rfl
@[simp] theorem answerRead_done (v : Word) (s : State) : (answerRead v s).done = s.done := rfl
@[simp] theorem answerRead_err (v : Word) (s : State) : (answerRead v s).err = s.err := rfl
@[simp] theorem answerRead_errcode (v : Word) (s : State) : (answerRead v s).errcode = s.errcode := rfl
@[simp] theorem answerRead_doneIe (v : Word) (s : State) : (answerRead v s).doneIe = s.doneIe := rfl
@[simp] theorem answerRead_errIe (v : Word) (s : State) : (answerRead v s).errIe = s.errIe := rfl
@[simp] theorem answerRead_response (v : Word) (s : State) : (answerRead v s).response = .value v := rfl
@[simp] theorem answerRead_pending (v : Word) (s : State) : (answerRead v s).pending = s.pending := rfl

/-! ### acknowledge -/

@[simp] theorem acknowledge_work (s : State) : (acknowledge s).work = s.work := rfl
@[simp] theorem acknowledge_t (s : State) : (acknowledge s).t = s.t := rfl
@[simp] theorem acknowledge_m (s : State) : (acknowledge s).m = s.m := rfl
@[simp] theorem acknowledge_wvalid (s : State) : (acknowledge s).wvalid = s.wvalid := rfl
@[simp] theorem acknowledge_w (s : State) : (acknowledge s).w = s.w := rfl
@[simp] theorem acknowledge_h (s : State) : (acknowledge s).h = s.h := rfl
@[simp] theorem acknowledge_rom (s : State) : (acknowledge s).rom = s.rom := rfl
@[simp] theorem acknowledge_busy (s : State) : (acknowledge s).busy = s.busy := rfl
@[simp] theorem acknowledge_done (s : State) : (acknowledge s).done = s.done := rfl
@[simp] theorem acknowledge_err (s : State) : (acknowledge s).err = s.err := rfl
@[simp] theorem acknowledge_errcode (s : State) : (acknowledge s).errcode = s.errcode := rfl
@[simp] theorem acknowledge_doneIe (s : State) : (acknowledge s).doneIe = s.doneIe := rfl
@[simp] theorem acknowledge_errIe (s : State) : (acknowledge s).errIe = s.errIe := rfl
@[simp] theorem acknowledge_response (s : State) : (acknowledge s).response = .written := rfl
@[simp] theorem acknowledge_pending (s : State) : (acknowledge s).pending = s.pending := rfl

/-! ### busError -/

@[simp] theorem busError_work (off : BitVec 7) (s : State) : (busError off s).work = s.work := rfl
@[simp] theorem busError_t (off : BitVec 7) (s : State) : (busError off s).t = s.t := rfl
@[simp] theorem busError_m (off : BitVec 7) (s : State) : (busError off s).m = s.m := rfl
@[simp] theorem busError_wvalid (off : BitVec 7) (s : State) : (busError off s).wvalid = s.wvalid := rfl
@[simp] theorem busError_w (off : BitVec 7) (s : State) : (busError off s).w = s.w := rfl
@[simp] theorem busError_h (off : BitVec 7) (s : State) : (busError off s).h = s.h := rfl
@[simp] theorem busError_rom (off : BitVec 7) (s : State) : (busError off s).rom = s.rom := rfl
@[simp] theorem busError_busy (off : BitVec 7) (s : State) : (busError off s).busy = s.busy := rfl
@[simp] theorem busError_done (off : BitVec 7) (s : State) : (busError off s).done = s.done := rfl
@[simp] theorem busError_err (off : BitVec 7) (s : State) : (busError off s).err = s.err := rfl
@[simp] theorem busError_errcode (off : BitVec 7) (s : State) : (busError off s).errcode = s.errcode := rfl
@[simp] theorem busError_doneIe (off : BitVec 7) (s : State) : (busError off s).doneIe = s.doneIe := rfl
@[simp] theorem busError_errIe (off : BitVec 7) (s : State) : (busError off s).errIe = s.errIe := rfl
@[simp] theorem busError_response (off : BitVec 7) (s : State) : (busError off s).response = .busError off := rfl
@[simp] theorem busError_pending (off : BitVec 7) (s : State) : (busError off s).pending = s.pending := rfl

/-! ### clearStatus -/

@[simp] theorem clearStatus_work (s : State) : (clearStatus s).work = s.work := rfl
@[simp] theorem clearStatus_t (s : State) : (clearStatus s).t = s.t := rfl
@[simp] theorem clearStatus_m (s : State) : (clearStatus s).m = s.m := rfl
@[simp] theorem clearStatus_wvalid (s : State) : (clearStatus s).wvalid = s.wvalid := rfl
@[simp] theorem clearStatus_w (s : State) : (clearStatus s).w = s.w := rfl
@[simp] theorem clearStatus_h (s : State) : (clearStatus s).h = s.h := rfl
@[simp] theorem clearStatus_rom (s : State) : (clearStatus s).rom = s.rom := rfl
@[simp] theorem clearStatus_busy (s : State) : (clearStatus s).busy = s.busy := rfl
@[simp] theorem clearStatus_done (s : State) : (clearStatus s).done = false := rfl
@[simp] theorem clearStatus_err (s : State) : (clearStatus s).err = false := rfl
@[simp] theorem clearStatus_errcode (s : State) : (clearStatus s).errcode = 0 := rfl
@[simp] theorem clearStatus_doneIe (s : State) : (clearStatus s).doneIe = s.doneIe := rfl
@[simp] theorem clearStatus_errIe (s : State) : (clearStatus s).errIe = s.errIe := rfl
@[simp] theorem clearStatus_response (s : State) : (clearStatus s).response = s.response := rfl
@[simp] theorem clearStatus_pending (s : State) : (clearStatus s).pending = s.pending := rfl

/-! ### loadWindow -/

@[simp] theorem loadWindow_work (s : State) : (loadWindow s).work = s.work := rfl
@[simp] theorem loadWindow_t (s : State) : (loadWindow s).t = s.t := rfl
@[simp] theorem loadWindow_m (s : State) : (loadWindow s).m = s.m := rfl
@[simp] theorem loadWindow_wvalid (s : State) : (loadWindow s).wvalid = s.wvalid := rfl
@[simp] theorem loadWindow_w (s : State) : (loadWindow s).w = s.m := rfl
@[simp] theorem loadWindow_h (s : State) : (loadWindow s).h = s.h := rfl
@[simp] theorem loadWindow_rom (s : State) : (loadWindow s).rom = s.rom := rfl
@[simp] theorem loadWindow_busy (s : State) : (loadWindow s).busy = s.busy := rfl
@[simp] theorem loadWindow_done (s : State) : (loadWindow s).done = s.done := rfl
@[simp] theorem loadWindow_err (s : State) : (loadWindow s).err = s.err := rfl
@[simp] theorem loadWindow_errcode (s : State) : (loadWindow s).errcode = s.errcode := rfl
@[simp] theorem loadWindow_doneIe (s : State) : (loadWindow s).doneIe = s.doneIe := rfl
@[simp] theorem loadWindow_errIe (s : State) : (loadWindow s).errIe = s.errIe := rfl
@[simp] theorem loadWindow_response (s : State) : (loadWindow s).response = s.response := rfl
@[simp] theorem loadWindow_pending (s : State) : (loadWindow s).pending = s.pending := rfl

/-! ### loadWork -/

@[simp] theorem loadWork_work (s : State) : (loadWork s).work = workOf s.h := rfl
@[simp] theorem loadWork_t (s : State) : (loadWork s).t = s.t := rfl
@[simp] theorem loadWork_m (s : State) : (loadWork s).m = s.m := rfl
@[simp] theorem loadWork_wvalid (s : State) : (loadWork s).wvalid = s.wvalid := rfl
@[simp] theorem loadWork_w (s : State) : (loadWork s).w = s.w := rfl
@[simp] theorem loadWork_h (s : State) : (loadWork s).h = s.h := rfl
@[simp] theorem loadWork_rom (s : State) : (loadWork s).rom = s.rom := rfl
@[simp] theorem loadWork_busy (s : State) : (loadWork s).busy = s.busy := rfl
@[simp] theorem loadWork_done (s : State) : (loadWork s).done = s.done := rfl
@[simp] theorem loadWork_err (s : State) : (loadWork s).err = s.err := rfl
@[simp] theorem loadWork_errcode (s : State) : (loadWork s).errcode = s.errcode := rfl
@[simp] theorem loadWork_doneIe (s : State) : (loadWork s).doneIe = s.doneIe := rfl
@[simp] theorem loadWork_errIe (s : State) : (loadWork s).errIe = s.errIe := rfl
@[simp] theorem loadWork_response (s : State) : (loadWork s).response = s.response := rfl
@[simp] theorem loadWork_pending (s : State) : (loadWork s).pending = s.pending := rfl

/-! ### loadIv -/

@[simp] theorem loadIv_work (s : State) : (loadIv s).work = s.work := rfl
@[simp] theorem loadIv_t (s : State) : (loadIv s).t = s.t := rfl
@[simp] theorem loadIv_m (s : State) : (loadIv s).m = s.m := rfl
@[simp] theorem loadIv_wvalid (s : State) : (loadIv s).wvalid = s.wvalid := rfl
@[simp] theorem loadIv_w (s : State) : (loadIv s).w = s.w := rfl
@[simp] theorem loadIv_h (s : State) : (loadIv s).h = iv := rfl
@[simp] theorem loadIv_rom (s : State) : (loadIv s).rom = s.rom := rfl
@[simp] theorem loadIv_busy (s : State) : (loadIv s).busy = s.busy := rfl
@[simp] theorem loadIv_done (s : State) : (loadIv s).done = s.done := rfl
@[simp] theorem loadIv_err (s : State) : (loadIv s).err = s.err := rfl
@[simp] theorem loadIv_errcode (s : State) : (loadIv s).errcode = s.errcode := rfl
@[simp] theorem loadIv_doneIe (s : State) : (loadIv s).doneIe = s.doneIe := rfl
@[simp] theorem loadIv_errIe (s : State) : (loadIv s).errIe = s.errIe := rfl
@[simp] theorem loadIv_response (s : State) : (loadIv s).response = s.response := rfl
@[simp] theorem loadIv_pending (s : State) : (loadIv s).pending = s.pending := rfl

/-! ### writeM -/

@[simp] theorem writeM_work (j : Fin 16) (v : Word) (s : State) : (writeM j v s).work = s.work := rfl
@[simp] theorem writeM_t (j : Fin 16) (v : Word) (s : State) : (writeM j v s).t = s.t := rfl
@[simp] theorem writeM_m (j : Fin 16) (v : Word) (s : State) : (writeM j v s).m = s.m.set j v := rfl
@[simp] theorem writeM_wvalid (j : Fin 16) (v : Word) (s : State) : (writeM j v s).wvalid = s.wvalid ||| BitVec.twoPow 16 j.val := rfl
@[simp] theorem writeM_w (j : Fin 16) (v : Word) (s : State) : (writeM j v s).w = s.w := rfl
@[simp] theorem writeM_h (j : Fin 16) (v : Word) (s : State) : (writeM j v s).h = s.h := rfl
@[simp] theorem writeM_rom (j : Fin 16) (v : Word) (s : State) : (writeM j v s).rom = s.rom := rfl
@[simp] theorem writeM_busy (j : Fin 16) (v : Word) (s : State) : (writeM j v s).busy = s.busy := rfl
@[simp] theorem writeM_done (j : Fin 16) (v : Word) (s : State) : (writeM j v s).done = s.done := rfl
@[simp] theorem writeM_err (j : Fin 16) (v : Word) (s : State) : (writeM j v s).err = s.err := rfl
@[simp] theorem writeM_errcode (j : Fin 16) (v : Word) (s : State) : (writeM j v s).errcode = s.errcode := rfl
@[simp] theorem writeM_doneIe (j : Fin 16) (v : Word) (s : State) : (writeM j v s).doneIe = s.doneIe := rfl
@[simp] theorem writeM_errIe (j : Fin 16) (v : Word) (s : State) : (writeM j v s).errIe = s.errIe := rfl
@[simp] theorem writeM_response (j : Fin 16) (v : Word) (s : State) : (writeM j v s).response = s.response := rfl
@[simp] theorem writeM_pending (j : Fin 16) (v : Word) (s : State) : (writeM j v s).pending = s.pending := rfl

/-! ### writeIrqen -/

@[simp] theorem writeIrqen_work (v : Word) (s : State) : (writeIrqen v s).work = s.work := rfl
@[simp] theorem writeIrqen_t (v : Word) (s : State) : (writeIrqen v s).t = s.t := rfl
@[simp] theorem writeIrqen_m (v : Word) (s : State) : (writeIrqen v s).m = s.m := rfl
@[simp] theorem writeIrqen_wvalid (v : Word) (s : State) : (writeIrqen v s).wvalid = s.wvalid := rfl
@[simp] theorem writeIrqen_w (v : Word) (s : State) : (writeIrqen v s).w = s.w := rfl
@[simp] theorem writeIrqen_h (v : Word) (s : State) : (writeIrqen v s).h = s.h := rfl
@[simp] theorem writeIrqen_rom (v : Word) (s : State) : (writeIrqen v s).rom = s.rom := rfl
@[simp] theorem writeIrqen_busy (v : Word) (s : State) : (writeIrqen v s).busy = s.busy := rfl
@[simp] theorem writeIrqen_done (v : Word) (s : State) : (writeIrqen v s).done = s.done := rfl
@[simp] theorem writeIrqen_err (v : Word) (s : State) : (writeIrqen v s).err = s.err := rfl
@[simp] theorem writeIrqen_errcode (v : Word) (s : State) : (writeIrqen v s).errcode = s.errcode := rfl
@[simp] theorem writeIrqen_doneIe (v : Word) (s : State) : (writeIrqen v s).doneIe = v.getLsbD 0 := rfl
@[simp] theorem writeIrqen_errIe (v : Word) (s : State) : (writeIrqen v s).errIe = v.getLsbD 1 := rfl
@[simp] theorem writeIrqen_response (v : Word) (s : State) : (writeIrqen v s).response = s.response := rfl
@[simp] theorem writeIrqen_pending (v : Word) (s : State) : (writeIrqen v s).pending = s.pending := rfl

/-! ### roundStep -/

@[simp] theorem roundStep_work (x : Bool) (k : BitVec 2) (f : BoolFn) (s : State) : (roundStep x k f s).work = roundWork f (ktab k) (schedWord x s.t s.w) s.work := rfl
@[simp] theorem roundStep_t (x : Bool) (k : BitVec 2) (f : BoolFn) (s : State) : (roundStep x k f s).t = s.t + 1 := rfl
@[simp] theorem roundStep_m (x : Bool) (k : BitVec 2) (f : BoolFn) (s : State) : (roundStep x k f s).m = s.m := rfl
@[simp] theorem roundStep_wvalid (x : Bool) (k : BitVec 2) (f : BoolFn) (s : State) : (roundStep x k f s).wvalid = s.wvalid := rfl
@[simp] theorem roundStep_w (x : Bool) (k : BitVec 2) (f : BoolFn) (s : State) : (roundStep x k f s).w = schedWindow x s.t s.w := rfl
@[simp] theorem roundStep_h (x : Bool) (k : BitVec 2) (f : BoolFn) (s : State) : (roundStep x k f s).h = s.h := rfl
@[simp] theorem roundStep_rom (x : Bool) (k : BitVec 2) (f : BoolFn) (s : State) : (roundStep x k f s).rom = s.rom := rfl
@[simp] theorem roundStep_busy (x : Bool) (k : BitVec 2) (f : BoolFn) (s : State) : (roundStep x k f s).busy = s.busy := rfl
@[simp] theorem roundStep_done (x : Bool) (k : BitVec 2) (f : BoolFn) (s : State) : (roundStep x k f s).done = s.done := rfl
@[simp] theorem roundStep_err (x : Bool) (k : BitVec 2) (f : BoolFn) (s : State) : (roundStep x k f s).err = s.err := rfl
@[simp] theorem roundStep_errcode (x : Bool) (k : BitVec 2) (f : BoolFn) (s : State) : (roundStep x k f s).errcode = s.errcode := rfl
@[simp] theorem roundStep_doneIe (x : Bool) (k : BitVec 2) (f : BoolFn) (s : State) : (roundStep x k f s).doneIe = s.doneIe := rfl
@[simp] theorem roundStep_errIe (x : Bool) (k : BitVec 2) (f : BoolFn) (s : State) : (roundStep x k f s).errIe = s.errIe := rfl
@[simp] theorem roundStep_response (x : Bool) (k : BitVec 2) (f : BoolFn) (s : State) : (roundStep x k f s).response = s.response := rfl
@[simp] theorem roundStep_pending (x : Bool) (k : BitVec 2) (f : BoolFn) (s : State) : (roundStep x k f s).pending = s.pending := rfl

/-! ### finalize -/

@[simp] theorem finalize_work (s : State) : (finalize s).work = s.work := rfl
@[simp] theorem finalize_t (s : State) : (finalize s).t = s.t := rfl
@[simp] theorem finalize_m (s : State) : (finalize s).m = s.m := rfl
@[simp] theorem finalize_wvalid (s : State) : (finalize s).wvalid = s.wvalid := rfl
@[simp] theorem finalize_w (s : State) : (finalize s).w = s.w := rfl
@[simp] theorem finalize_h (s : State) : (finalize s).h = addWork s.h s.work := rfl
@[simp] theorem finalize_rom (s : State) : (finalize s).rom = s.rom := rfl
@[simp] theorem finalize_busy (s : State) : (finalize s).busy = false := rfl
@[simp] theorem finalize_done (s : State) : (finalize s).done = true := rfl
@[simp] theorem finalize_err (s : State) : (finalize s).err = s.err := rfl
@[simp] theorem finalize_errcode (s : State) : (finalize s).errcode = s.errcode := rfl
@[simp] theorem finalize_doneIe (s : State) : (finalize s).doneIe = s.doneIe := rfl
@[simp] theorem finalize_errIe (s : State) : (finalize s).errIe = s.errIe := rfl
@[simp] theorem finalize_response (s : State) : (finalize s).response = s.response := rfl
@[simp] theorem finalize_pending (s : State) : (finalize s).pending = s.pending := rfl

/-! ### resetStep -/

@[simp] theorem resetStep_work (s : State) : (resetStep s).work = State.reset.work := rfl
@[simp] theorem resetStep_t (s : State) : (resetStep s).t = State.reset.t := rfl
@[simp] theorem resetStep_m (s : State) : (resetStep s).m = State.reset.m := rfl
@[simp] theorem resetStep_wvalid (s : State) : (resetStep s).wvalid = State.reset.wvalid := rfl
@[simp] theorem resetStep_w (s : State) : (resetStep s).w = State.reset.w := rfl
@[simp] theorem resetStep_h (s : State) : (resetStep s).h = State.reset.h := rfl
@[simp] theorem resetStep_rom (s : State) : (resetStep s).rom = s.rom := rfl
@[simp] theorem resetStep_busy (s : State) : (resetStep s).busy = State.reset.busy := rfl
@[simp] theorem resetStep_done (s : State) : (resetStep s).done = State.reset.done := rfl
@[simp] theorem resetStep_err (s : State) : (resetStep s).err = State.reset.err := rfl
@[simp] theorem resetStep_errcode (s : State) : (resetStep s).errcode = State.reset.errcode := rfl
@[simp] theorem resetStep_doneIe (s : State) : (resetStep s).doneIe = State.reset.doneIe := rfl
@[simp] theorem resetStep_errIe (s : State) : (resetStep s).errIe = State.reset.errIe := rfl
@[simp] theorem resetStep_response (s : State) : (resetStep s).response = s.response := rfl
@[simp] theorem resetStep_pending (s : State) : (resetStep s).pending = s.pending := rfl

/-! ### recordError: only ERR and ERRCODE change (R241) -/

@[simp] theorem recordError_work (e : CommandError) (s : State) : (recordError e s).work = s.work := by
  unfold recordError; split <;> rfl
@[simp] theorem recordError_t (e : CommandError) (s : State) : (recordError e s).t = s.t := by
  unfold recordError; split <;> rfl
@[simp] theorem recordError_m (e : CommandError) (s : State) : (recordError e s).m = s.m := by
  unfold recordError; split <;> rfl
@[simp] theorem recordError_wvalid (e : CommandError) (s : State) : (recordError e s).wvalid = s.wvalid := by
  unfold recordError; split <;> rfl
@[simp] theorem recordError_w (e : CommandError) (s : State) : (recordError e s).w = s.w := by
  unfold recordError; split <;> rfl
@[simp] theorem recordError_h (e : CommandError) (s : State) : (recordError e s).h = s.h := by
  unfold recordError; split <;> rfl
@[simp] theorem recordError_rom (e : CommandError) (s : State) : (recordError e s).rom = s.rom := by
  unfold recordError; split <;> rfl
@[simp] theorem recordError_busy (e : CommandError) (s : State) : (recordError e s).busy = s.busy := by
  unfold recordError; split <;> rfl
@[simp] theorem recordError_done (e : CommandError) (s : State) : (recordError e s).done = s.done := by
  unfold recordError; split <;> rfl
@[simp] theorem recordError_err (e : CommandError) (s : State) : (recordError e s).err = true := by
  unfold recordError; split <;> simp_all
@[simp] theorem recordError_errcode (e : CommandError) (s : State) :
    (recordError e s).errcode = if s.err = false then e.code else s.errcode := by
  unfold recordError; split <;> rfl
@[simp] theorem recordError_doneIe (e : CommandError) (s : State) : (recordError e s).doneIe = s.doneIe := by
  unfold recordError; split <;> rfl
@[simp] theorem recordError_errIe (e : CommandError) (s : State) : (recordError e s).errIe = s.errIe := by
  unfold recordError; split <;> rfl
@[simp] theorem recordError_response (e : CommandError) (s : State) : (recordError e s).response = s.response := by
  unfold recordError; split <;> rfl
@[simp] theorem recordError_pending (e : CommandError) (s : State) : (recordError e s).pending = s.pending := by
  unfold recordError; split <;> rfl

/-! ### writeH: refused while busy (R124) -/

theorem writeH_of_busy (i : Fin 5) (v : Word) (s : State) (hb : s.busy = true) : writeH i v s = recordError .busy s := by
  simp [writeH, hb]

theorem writeH_of_idle (i : Fin 5) (v : Word) (s : State) (hb : s.busy = false) :
    writeH i v s = { s with h := s.h.set i v } := by
  simp [writeH, hb]

@[simp] theorem writeH_work (i : Fin 5) (v : Word) (s : State) : (writeH i v s).work = s.work := by
  unfold writeH; split <;> simp
@[simp] theorem writeH_t (i : Fin 5) (v : Word) (s : State) : (writeH i v s).t = s.t := by
  unfold writeH; split <;> simp
@[simp] theorem writeH_m (i : Fin 5) (v : Word) (s : State) : (writeH i v s).m = s.m := by
  unfold writeH; split <;> simp
@[simp] theorem writeH_wvalid (i : Fin 5) (v : Word) (s : State) : (writeH i v s).wvalid = s.wvalid := by
  unfold writeH; split <;> simp
@[simp] theorem writeH_w (i : Fin 5) (v : Word) (s : State) : (writeH i v s).w = s.w := by
  unfold writeH; split <;> simp
@[simp] theorem writeH_rom (i : Fin 5) (v : Word) (s : State) : (writeH i v s).rom = s.rom := by
  unfold writeH; split <;> simp
@[simp] theorem writeH_busy (i : Fin 5) (v : Word) (s : State) : (writeH i v s).busy = s.busy := by
  unfold writeH; split <;> simp
@[simp] theorem writeH_done (i : Fin 5) (v : Word) (s : State) : (writeH i v s).done = s.done := by
  unfold writeH; split <;> simp
@[simp] theorem writeH_doneIe (i : Fin 5) (v : Word) (s : State) : (writeH i v s).doneIe = s.doneIe := by
  unfold writeH; split <;> simp
@[simp] theorem writeH_errIe (i : Fin 5) (v : Word) (s : State) : (writeH i v s).errIe = s.errIe := by
  unfold writeH; split <;> simp
@[simp] theorem writeH_response (i : Fin 5) (v : Word) (s : State) : (writeH i v s).response = s.response := by
  unfold writeH; split <;> simp
@[simp] theorem writeH_pending (i : Fin 5) (v : Word) (s : State) : (writeH i v s).pending = s.pending := by
  unfold writeH; split <;> simp

end Sys2Proof.Machine
end

