-- ==== Sys2Proof/Laws/Exec.lean ====
section
/-! SUPPORT. What `exec` is for each instruction, by rfl, so that no proof unfolds the dispatch. -/

namespace Sys2Proof.Machine

@[simp] theorem exec_rdId (s : State) : exec .rdId s = .next (answerRead idWord s) := rfl

@[simp] theorem exec_rdCtrl (s : State) : exec .rdCtrl s = .next (answerRead 0 s) := rfl

@[simp] theorem exec_rdStatus (s : State) : exec .rdStatus s = .next (answerRead (statusWord s) s) := rfl

@[simp] theorem exec_rdIrqen (s : State) : exec .rdIrqen s = .next (answerRead (irqenWord s) s) := rfl

@[simp] theorem exec_rdH0 (s : State) : exec .rdH0 s = .next (answerRead s.h[0] s) := rfl

@[simp] theorem exec_rdH1 (s : State) : exec .rdH1 s = .next (answerRead s.h[1] s) := rfl

@[simp] theorem exec_rdH2 (s : State) : exec .rdH2 s = .next (answerRead s.h[2] s) := rfl

@[simp] theorem exec_rdH3 (s : State) : exec .rdH3 s = .next (answerRead s.h[3] s) := rfl

@[simp] theorem exec_rdH4 (s : State) : exec .rdH4 s = .next (answerRead s.h[4] s) := rfl

@[simp] theorem exec_rdM (j : Fin 16) (s : State) : exec (.rdM j) s = .next (answerRead s.m[j] s) := rfl

@[simp] theorem exec_wrCtrl (data : Word) (s : State) : exec (.wrCtrl data) s = execWrCtrl data s := rfl

@[simp] theorem exec_wrIrqen (data : Word) (s : State) : exec (.wrIrqen data) s = .next (acknowledge (writeIrqen data s)) := rfl

@[simp] theorem exec_wrH0 (data : Word) (s : State) : exec (.wrH0 data) s = .next (acknowledge (writeH 0 data s)) := rfl

@[simp] theorem exec_wrH1 (data : Word) (s : State) : exec (.wrH1 data) s = .next (acknowledge (writeH 1 data s)) := rfl

@[simp] theorem exec_wrH2 (data : Word) (s : State) : exec (.wrH2 data) s = .next (acknowledge (writeH 2 data s)) := rfl

@[simp] theorem exec_wrH3 (data : Word) (s : State) : exec (.wrH3 data) s = .next (acknowledge (writeH 3 data s)) := rfl

@[simp] theorem exec_wrH4 (data : Word) (s : State) : exec (.wrH4 data) s = .next (acknowledge (writeH 4 data s)) := rfl

@[simp] theorem exec_wrM (j : Fin 16) (data : Word) (s : State) : exec (.wrM j data) s = .next (acknowledge (writeM j data s)) := rfl

@[simp] theorem exec_wrRoId (data : Word) (s : State) : exec (.wrRoId data) s = .next (busError 0x00#7 s) := rfl

@[simp] theorem exec_wrRoStatus (data : Word) (s : State) : exec (.wrRoStatus data) s = .next (busError 0x08#7 s) := rfl

@[simp] theorem exec_accRsvd24 (dir : Dir) (data : Word) (s : State) : exec (.accRsvd24 dir data) s = .next (busError 0x24#7 s) := rfl

@[simp] theorem exec_accRsvd28 (dir : Dir) (data : Word) (s : State) : exec (.accRsvd28 dir data) s = .next (busError 0x28#7 s) := rfl

@[simp] theorem exec_accRsvd2C (dir : Dir) (data : Word) (s : State) : exec (.accRsvd2C dir data) s = .next (busError 0x2C#7 s) := rfl

@[simp] theorem exec_accRsvd30 (dir : Dir) (data : Word) (s : State) : exec (.accRsvd30 dir data) s = .next (busError 0x30#7 s) := rfl

@[simp] theorem exec_accRsvd34 (dir : Dir) (data : Word) (s : State) : exec (.accRsvd34 dir data) s = .next (busError 0x34#7 s) := rfl

@[simp] theorem exec_accRsvd38 (dir : Dir) (data : Word) (s : State) : exec (.accRsvd38 dir data) s = .next (busError 0x38#7 s) := rfl

@[simp] theorem exec_accRsvd3C (dir : Dir) (data : Word) (s : State) : exec (.accRsvd3C dir data) s = .next (busError 0x3C#7 s) := rfl

@[simp] theorem exec_nop (s : State) : exec .nop s = .next (acknowledge s) := rfl

/-- INIT while busy is refused with BUSY. -/
theorem exec_init_busy (s : State) (hb : s.busy = true) :
    exec .init s = .next (acknowledge (recordError .busy s)) := by
  simp [exec, execInit, hb]

/-- INIT while idle. -/
theorem exec_init_idle (s : State) (hb : s.busy = false) :
    exec .init s = .next (acknowledge { loadIv s with t := 0, done := false }) := by
  simp [exec, execInit, hb]

/-- START while busy is refused with BUSY, whatever WVALID is. -/
theorem exec_start_busy (s : State) (hb : s.busy = true) :
    exec .start s = .next (acknowledge (recordError .busy s)) := by
  simp [exec, execStart, hb]

/-- START while idle with a word of M unwritten is refused with INCOMPLETE. -/
theorem exec_start_incomplete (s : State) (hb : s.busy = false) (hv : s.wvalid ≠ 0xFFFF#16) :
    exec .start s = .next (acknowledge (recordError .incomplete s)) := by
  simp [exec, execStart, hb, hv]

/-- START accepted. -/
theorem exec_start_accepted (s : State) (hb : s.busy = false) (hv : s.wvalid = 0xFFFF#16) :
    exec .start s =
      .next (acknowledge { loadWork (loadWindow s) with t := 0, wvalid := 0, done := false, busy := true }) := by
  simp [exec, execStart, hb, hv]

@[simp] theorem exec_abort (s : State) : exec .abort s = .next (acknowledge { s with busy := false, done := false, t := 0 }) := rfl

@[simp] theorem exec_clrstat (s : State) : exec .clrstat s = .next (acknowledge (clearStatus s)) := rfl

@[simp] theorem exec_rndSelK0 (s : State) : exec .rndSelK0 s = whenPhase .round (roundStep false 0#2 .sel) s := rfl

@[simp] theorem exec_rndSelK0X (s : State) : exec .rndSelK0X s = whenPhase .round (roundStep true 0#2 .sel) s := rfl

@[simp] theorem exec_rndXorK1X (s : State) : exec .rndXorK1X s = whenPhase .round (roundStep true 1#2 .xor) s := rfl

@[simp] theorem exec_rndMajK2X (s : State) : exec .rndMajK2X s = whenPhase .round (roundStep true 2#2 .maj) s := rfl

@[simp] theorem exec_rndXorK3X (s : State) : exec .rndXorK3X s = whenPhase .round (roundStep true 3#2 .xor) s := rfl

@[simp] theorem exec_fin (s : State) : exec .fin s = whenPhase .final finalize s := rfl

/-! ### WR.CTRL performs the command its word names -/

theorem exec_wrCtrl_nop (s : State) : exec (.wrCtrl 0x0#32) s = exec .nop s := rfl

theorem exec_wrCtrl_init (s : State) : exec (.wrCtrl 0x1#32) s = exec .init s := rfl

theorem exec_wrCtrl_start (s : State) : exec (.wrCtrl 0x2#32) s = exec .start s := rfl

theorem exec_wrCtrl_abort (s : State) : exec (.wrCtrl 0x3#32) s = exec .abort s := rfl

theorem exec_wrCtrl_clrstat (s : State) : exec (.wrCtrl 0x4#32) s = exec .clrstat s := rfl

/-- A command word is one of the five legal ones, or illegal: bits 31:4 not 0, or CMD at least 5 (R86). -/
theorem commandWord_cases (data : Word) :
    (data = 0x0#32 ∨ data = 0x1#32 ∨ data = 0x2#32 ∨ data = 0x3#32 ∨ data = 0x4#32) ∨
      (data.extractLsb' 4 28 ≠ 0#28 ∨ 5 ≤ (data.extractLsb' 0 4).toNat) := by
  by_cases hHi : data.extractLsb' 4 28 = 0#28
  · by_cases hLo : 5 ≤ (data.extractLsb' 0 4).toNat
    · exact .inr (.inr hLo)
    · left
      have hHi' := congrArg BitVec.toNat hHi
      simp [BitVec.extractLsb'_toNat] at hHi' hLo
      have : data.toNat < 5 := by omega
      have key : ∀ n : Nat, data.toNat = n → data = BitVec.ofNat 32 n := by
        intro n h; rw [← h]; simp
      have cases5 : data.toNat = 0 ∨ data.toNat = 1 ∨ data.toNat = 2 ∨ data.toNat = 3 ∨ data.toNat = 4 := by omega
      rcases cases5 with h | h | h | h | h
      · exact .inl (key 0 h)
      · exact .inr (.inl (key 1 h))
      · exact .inr (.inr (.inl (key 2 h)))
      · exact .inr (.inr (.inr (.inl (key 3 h))))
      · exact .inr (.inr (.inr (.inr (key 4 h))))
  · exact .inr (.inl hHi)

/-- WR.CTRL of an illegal word records BADCMD and does nothing else. -/
theorem exec_wrCtrl_illegal (data : Word) (s : State)
    (hIll : data.extractLsb' 4 28 ≠ 0#28 ∨ 5 ≤ (data.extractLsb' 0 4).toNat) :
    exec (.wrCtrl data) s = .next (acknowledge (recordError .badCmd s)) := by
  simp only [exec, execWrCtrl, if_pos hIll]

end Sys2Proof.Machine
end

