-- ==== Sys2Proof/Laws/Step.lean ====
section
/-! SUPPORT. What one step can do, said once: which instruction runs and from which state, or that none does. -/

namespace Sys2Proof.Machine

/-- A micro-operation that answers a next state was enabled, and its effect is that state. -/
theorem whenPhase_next {p : Phase} {effect : State → State} {s s' : State}
    (h : whenPhase p effect s = .next s') : s.phase = p ∧ s' = effect s := by
  unfold whenPhase at h
  split at h
  · next hp => exact ⟨hp, by simpa using h.symm⟩
  · split at h <;> cases h

/-- In its phase a micro-operation takes effect. -/
theorem whenPhase_enabled {p : Phase} (effect : State → State) {s : State} (hp : s.phase = p) :
    whenPhase p effect s = .next (effect s) := by
  simp [whenPhase, hp]

/-- The phase ROUND (R23). -/
theorem phase_eq_round {s : State} : s.phase = .round ↔ s.busy = true ∧ s.t.toNat < 80 := by
  unfold State.phase
  cases s.busy
  · simp
  · by_cases h : s.t.toNat < 80
    · simp [h]
    · by_cases h' : s.t.toNat = 80 <;> simp [h, h']

/-- The phase FINAL (R23). -/
theorem phase_eq_final {s : State} : s.phase = .final ↔ s.busy = true ∧ s.t.toNat = 80 := by
  unfold State.phase
  cases s.busy
  · simp
  · by_cases h : s.t.toNat < 80
    · simp [h, Nat.ne_of_lt h]
    · by_cases h' : s.t.toNat = 80 <;> simp [h, h']

/-- The phase IDLE (R23). -/
theorem phase_eq_idle {s : State} : s.phase = .idle ↔ s.busy = false := by
  unfold State.phase
  cases s.busy
  · simp
  · by_cases h : s.t.toNat < 80
    · simp [h]
    · by_cases h' : s.t.toNat = 80 <;> simp [h, h']

/-- A step that answers a next state either ran an instruction there, or settled without one. -/
theorem step_next_cases {s s' : State} (h : step s = .next s') :
    (∃ i s0, fetch s = .run i s0 ∧ exec i s0 = .next s') ∨ fetch s = .settled s' := by
  unfold step at h
  split at h
  · next i s0 hf => exact .inl ⟨i, s0, hf, h⟩
  · next s0 hf => exact .inr (by rw [hf]; simpa using h)
  · cases h
  · cases h

/-- A ROM word decodes exactly where it is one of the five of R88. -/
theorem decodeRom_isSome (w : BitVec 8) :
    (decodeRom w).instr?.isSome = true ↔ w ∈ [0x00#8, 0x10#8, 0x15#8, 0x1A#8, 0x1D#8] := by
  revert w; decide

/-- The ROM is legal exactly where each of its words is one of the five of R88 (R91). -/
theorem romLegal_iff (rom : Vector (BitVec 8) 80) :
    romLegal rom = true ↔ ∀ t : Fin 80, rom[t] ∈ [0x00#8, 0x10#8, 0x15#8, 0x1A#8, 0x1D#8] := by
  simp only [romLegal, List.all_eq_true, decodeRom_isSome, Vector.mem_toList_iff, Vector.mem_iff_getElem]
  exact ⟨fun h t => h _ ⟨t, t.isLt, rfl⟩, fun h w ⟨t, ht, e⟩ => e ▸ h ⟨t, ht⟩⟩

/-- The ROM of R176 is legal. -/
@[simp] theorem romLegal_romTable : romLegal romTable = true := by decide

/-- In phase ROUND with a legal ROM the engine's turn runs the round of ROM[T]. -/
theorem fetchMicroOp_round {s : State} {i : Instr} (hp : s.phase = .round) (hr : romLegal s.rom = true)
    (hd : decodeRom (romWord s) = .ok i) : fetchMicroOp s = .run i s := by
  simp [fetchMicroOp, hp, hr, hd]

/-- In phase ROUND with a reserved word anywhere in the ROM the engine's turn is refused (R91). -/
theorem fetchMicroOp_reserved {s : State} (hp : s.phase = .round) (hr : romLegal s.rom = false) :
    fetchMicroOp s = .refuse .reservedRomWord := by
  simp [fetchMicroOp, hp, hr]

/-- The engine's turn runs, where it runs anything, a round of the ROM word at T or FIN, from the same state. -/
theorem fetchMicroOp_run {s s0 : State} {i : Instr} (h : fetchMicroOp s = .run i s0) :
    s0 = s ∧ ((s.phase = .round ∧ decodeRom (romWord s) = .ok i) ∨ (s.phase = .final ∧ i = .fin)) := by
  unfold fetchMicroOp at h
  split at h
  · cases h
  · next hp =>
    split at h
    · split at h
      · next j hd => cases h; exact ⟨rfl, .inl ⟨hp, hd⟩⟩
      · cases h
    · cases h
  · next hp =>
    unfold decodeStep at h
    split at h
    · next heq => split at heq <;> cases heq; cases h; exact ⟨rfl, .inr ⟨hp, rfl⟩⟩
    · cases h
  · cases h

/-- The engine's turn settles only while idle, and changes nothing then. -/
theorem fetchMicroOp_settled {s s0 : State} (h : fetchMicroOp s = .settled s0) : s0 = s ∧ s.phase = .idle := by
  unfold fetchMicroOp at h
  split at h
  · next hp => exact ⟨by simpa using h.symm, hp⟩
  · repeat' split at h
    all_goals cases h
  · split at h <;> cases h
  · cases h

/-- The host's transaction runs what its record decodes to, from the same state. -/
theorem fetchTxn_run {t : Txn} {s s0 : State} {i : Instr} (h : fetchTxn t s = .run i s0) :
    s0 = s ∧ decodeTxn t.record t.size = .ok i := by
  unfold fetchTxn at h
  split at h
  case h_1 j hd => cases h; exact ⟨rfl, hd⟩
  all_goals cases h

/-- A transaction that settles without an instruction is a bus error. -/
theorem fetchTxn_settled {t : Txn} {s s0 : State} (h : fetchTxn t s = .settled s0) :
    s0 = busError (recordOff t.record) s ∧
      (decodeTxn t.record t.size = .reject .sizeNotFour ∨ decodeTxn t.record t.size = .reject .misaligned) := by
  unfold fetchTxn at h
  split at h
  case h_2 hd => exact ⟨by simpa using h.symm, .inl hd⟩
  case h_3 hd => exact ⟨by simpa using h.symm, .inr hd⟩
  all_goals cases h

/-- An instruction runs from the state with the event that asked for it taken off. -/
theorem fetch_run {s s0 : State} {i : Instr} (h : fetch s = .run i s0) :
    s0 = { s with pending := s.pending.tail } := by
  unfold fetch at h
  split at h
  · next hp => rw [(fetchMicroOp_run h).1]; cases s; simp_all
  · next rest hp => rw [(fetchMicroOp_run h).1]; simp [hp]
  · cases h
  · next t rest hp => rw [(fetchTxn_run h).1]; simp [hp]

/-- A step that settles without an instruction is an idle turn of the engine, a reset, or a bus error. -/
theorem fetch_settled {s s0 : State} (h : fetch s = .settled s0) :
    (s.phase = .idle ∧ s0 = { s with pending := s.pending.tail }) ∨
    (∃ rest, s.pending = .reset :: rest ∧ s0 = resetStep { s with pending := rest }) ∨
    (∃ t rest, s.pending = .host t :: rest ∧ s0 = busError (recordOff t.record) { s with pending := rest } ∧
      (decodeTxn t.record t.size = .reject .sizeNotFour ∨ decodeTxn t.record t.size = .reject .misaligned)) := by
  unfold fetch at h
  split at h
  · next hp =>
    obtain ⟨he, hi⟩ := fetchMicroOp_settled h
    exact .inl ⟨hi, by rw [he]; cases s; simp_all⟩
  · next rest hp =>
    obtain ⟨he, hi⟩ := fetchMicroOp_settled h
    exact .inl ⟨hi, by rw [he]; simp [hp]⟩
  · next rest hp => exact .inr (.inl ⟨rest, hp, by simpa using h.symm⟩)
  · next t rest hp =>
    obtain ⟨rfl, hd⟩ := fetchTxn_settled h
    exact .inr (.inr ⟨t, rest, hp, rfl, hd⟩)

/-- What the instructions that write WR.CTRL can answer: the five commands, or BADCMD. -/
theorem exec_wrCtrl_cases (data : Word) (s : State) :
    (data = 0x0#32 ∧ exec (.wrCtrl data) s = exec .nop s) ∨
    (data = 0x1#32 ∧ exec (.wrCtrl data) s = exec .init s) ∨
    (data = 0x2#32 ∧ exec (.wrCtrl data) s = exec .start s) ∨
    (data = 0x3#32 ∧ exec (.wrCtrl data) s = exec .abort s) ∨
    (data = 0x4#32 ∧ exec (.wrCtrl data) s = exec .clrstat s) ∨
    ((data.extractLsb' 4 28 ≠ 0#28 ∨ 5 ≤ (data.extractLsb' 0 4).toNat) ∧
      exec (.wrCtrl data) s = .next (acknowledge (recordError .badCmd s))) := by
  rcases commandWord_cases data with (rfl | rfl | rfl | rfl | rfl) | hIll
  · exact .inl ⟨rfl, rfl⟩
  · exact .inr (.inl ⟨rfl, rfl⟩)
  · exact .inr (.inr (.inl ⟨rfl, rfl⟩))
  · exact .inr (.inr (.inr (.inl ⟨rfl, rfl⟩)))
  · exact .inr (.inr (.inr (.inr (.inl ⟨rfl, rfl⟩))))
  · exact .inr (.inr (.inr (.inr (.inr ⟨hIll, exec_wrCtrl_illegal data s hIll⟩))))

/-- What START can answer: BUSY, INCOMPLETE, or the block under way. -/
theorem exec_start_cases (s : State) :
    (s.busy = true ∧ exec .start s = .next (acknowledge (recordError .busy s))) ∨
    (s.busy = false ∧ s.wvalid ≠ 0xFFFF#16 ∧ exec .start s = .next (acknowledge (recordError .incomplete s))) ∨
    (s.busy = false ∧ s.wvalid = 0xFFFF#16 ∧ exec .start s =
      .next (acknowledge { loadWork (loadWindow s) with t := 0, wvalid := 0, done := false, busy := true })) := by
  cases hb : s.busy
  · by_cases hv : s.wvalid = 0xFFFF#16
    · exact .inr (.inr ⟨rfl, hv, exec_start_accepted s hb hv⟩)
    · exact .inr (.inl ⟨rfl, hv, exec_start_incomplete s hb hv⟩)
  · exact .inl ⟨rfl, exec_start_busy s hb⟩

/-- What INIT can answer: BUSY, or the initial state loaded. -/
theorem exec_init_cases (s : State) :
    (s.busy = true ∧ exec .init s = .next (acknowledge (recordError .busy s))) ∨
    (s.busy = false ∧ exec .init s = .next (acknowledge { loadIv s with t := 0, done := false })) := by
  cases hb : s.busy
  · exact .inr ⟨rfl, exec_init_idle s hb⟩
  · exact .inl ⟨rfl, exec_init_busy s hb⟩

end Sys2Proof.Machine
end

