-- ==== Sys2Proof/Laws/Effects.lean ====
section
/-! SUPPORT. Everything one step can do, said once (`step_effects`): the claims about who writes what are read off it.
Before it, which instructions a transaction can ask for and which the engine can run. -/

namespace Sys2Proof.Machine

/-- The five round micro-operations. -/
abbrev roundOps : List Instr := [.rndSelK0, .rndSelK0X, .rndXorK1X, .rndMajK2X, .rndXorK3X]

/-- A control ROM word names a round. -/
theorem decodeRom_round {w : BitVec 8} {i : Instr} (h : decodeRom w = .ok i) : i ∈ roundOps := by
  unfold decodeRom at h
  split_ifs at h <;> cases h <;> decide

/-- A transaction asks for no bare command and no micro-operation. -/
theorem decodeTxn_transaction {r : BitVec 40} {size : AccessSize} {i : Instr} (h : decodeTxn r size = .ok i) :
    i ∉ roundOps ∧ i ∉ [Instr.nop, .init, .start, .abort, .clrstat, .fin] := by
  rcases decodeTxn_cases r size with ⟨_, e⟩ | ⟨_, _, e⟩ | ⟨_, _, _, e⟩ | ⟨_, _, _, e⟩ <;> rw [e] at h <;> cases h
  generalize recordData r = data
  generalize windowReg _ = reg
  cases recordDir r <;> cases reg with
  | h i => revert i; simp [accessInstr, readInstr, writeInstr, roundOps, Fin.forall_fin_succ]
  | rsvd k => revert k; simp [accessInstr, readInstr, writeInstr, rsvdInstr, roundOps, Fin.forall_fin_succ]
  | _ => simp [accessInstr, readInstr, writeInstr, roundOps]

/-- An instruction a step runs is the engine's micro-operation, enabled, or the host's transaction at the head of the
pending events. -/
theorem fetch_source {s s0 : State} {i : Instr} (h : fetch s = .run i s0) :
    (i ∈ roundOps ∧ s.busy = true ∧ s.t.toNat < 80) ∨ (i = .fin ∧ s.busy = true ∧ s.t.toNat = 80) ∨
    (∃ t rest, s.pending = .host t :: rest ∧ decodeTxn t.record t.size = .ok i) := by
  have micro : ∀ s1 : State, s1.busy = s.busy → s1.t = s.t → fetchMicroOp s1 = .run i s0 →
      (i ∈ roundOps ∧ s.busy = true ∧ s.t.toNat < 80) ∨ (i = .fin ∧ s.busy = true ∧ s.t.toNat = 80) := by
    intro s1 hb ht h1
    rw [← hb, ← ht]
    rcases fetchMicroOp_run h1 with ⟨_, ⟨hp, hd⟩ | ⟨hp, hd⟩⟩
    · exact .inl ⟨decodeRom_round hd, phase_eq_round.mp hp⟩
    · exact .inr ⟨hd, phase_eq_final.mp hp⟩
  unfold fetch at h
  split at h
  · exact (micro s rfl rfl h).imp_right .inl
  · next rest _ => exact (micro { s with pending := rest } rfl rfl h).imp_right .inl
  · cases h
  · next t rest hp => exact .inr (.inr ⟨t, rest, hp, (fetchTxn_run h).2⟩)

/-- What a step ran. -/
theorem runs_of_fetch {s s0 : State} {i : Instr} (h : fetch s = .run i s0) : s.runs = some i := by
  simp [State.runs, h]

/-- Everything a step that answers a next state can have done, from `s0`, the state with its event taken off: nothing,
an answer on the bus, a reset, one of the host's writes, a round, or the finalize step. -/
theorem step_effects {s s' : State} (h : step s = .next s') :
    let s0 : State := { s with pending := s.pending.tail }
    s' = s0 ∨ (∃ answer, s' = { s0 with response := answer }) ∨ (s.resets = true ∧ s' = resetStep s0) ∨
    (∃ data, s.runs = some (.wrCtrl data) ∧ exec (.wrCtrl data) s0 = .next s') ∨
    (∃ data, s.runs = some (.wrIrqen data) ∧ s' = acknowledge (writeIrqen data s0)) ∨
    (∃ j data, s.runs = some (.wrM j data) ∧ s' = acknowledge (writeM j data s0)) ∨
    (∃ i data, (∃ e ∈ s.pending.head?, e.writesH) ∧ s' = acknowledge (writeH i data s0)) ∨
    (s.busy = true ∧ s.t.toNat < 80 ∧ (∃ i ∈ roundOps, s.runs = some i) ∧ ∃ x k f, s' = roundStep x k f s0) ∨
    (s.runs = some .fin ∧ s.busy = true ∧ s.t = 80#7 ∧ s' = finalize s0) := by
  intro s0
  rcases step_next_cases h with ⟨i, s1, hf, he⟩ | hf
  · obtain rfl : s1 = s0 := fetch_run hf
    have hr := runs_of_fetch hf
    rcases fetch_source hf with ⟨hi, hb, ht⟩ | ⟨rfl, hb, ht⟩ | ⟨t, rest, hp, hd⟩
    · have round : ∃ x k f, s' = roundStep x k f s0 := by
        simp only [roundOps, List.mem_cons, List.not_mem_nil, or_false] at hi
        rcases hi with rfl | rfl | rfl | rfl | rfl <;>
          simp only [exec_rndSelK0, exec_rndSelK0X, exec_rndXorK1X, exec_rndMajK2X, exec_rndXorK3X] at he <;>
          exact ⟨_, _, _, (whenPhase_next he).2⟩
      simp only [hb, ht, true_and]
      exact .inr (.inr (.inr (.inr (.inr (.inr (.inr (.inl ⟨⟨i, hi, hr⟩, round⟩)))))))
    · have ht80 : s.t = 80#7 := BitVec.eq_of_toNat_eq ht
      rw [exec_fin] at he
      exact .inr (.inr (.inr (.inr (.inr (.inr (.inr (.inr ⟨hr, hb, ht80, (whenPhase_next he).2⟩)))))))
    · have notCommand := (decodeTxn_transaction hd).2
      have notRound := (decodeTxn_transaction hd).1
      have asks : Event.asks (.host t) = some i := by simp [Event.asks, hd, Decoded.instr?]
      have writes : (∃ data, i = .wrH0 data ∨ i = .wrH1 data ∨ i = .wrH2 data ∨ i = .wrH3 data ∨ i = .wrH4 data) →
          ∃ e ∈ s.pending.head?, e.writesH := by
        rintro ⟨data, hi⟩
        refine ⟨.host t, by simp [hp], data, ?_⟩
        rw [asks]
        simpa using hi
      cases i with
      | wrCtrl data => exact .inr (.inr (.inr (.inl ⟨data, hr, he⟩)))
      | wrIrqen data => cases he; exact .inr (.inr (.inr (.inr (.inl ⟨data, hr, rfl⟩))))
      | wrM j data => cases he; exact .inr (.inr (.inr (.inr (.inr (.inl ⟨j, data, hr, rfl⟩)))))
      | wrH0 data | wrH1 data | wrH2 data | wrH3 data | wrH4 data =>
        cases he
        exact .inr (.inr (.inr (.inr (.inr (.inr (.inl ⟨_, data, writes ⟨data, by simp⟩, rfl⟩))))))
      | nop | init | start | abort | clrstat | fin => simp at notCommand
      | rndSelK0 | rndSelK0X | rndXorK1X | rndMajK2X | rndXorK3X => simp [roundOps] at notRound
      | rdId | rdCtrl | rdStatus | rdIrqen | rdH0 | rdH1 | rdH2 | rdH3 | rdH4 | rdM =>
        cases he; exact .inr (.inl ⟨_, rfl⟩)
      | wrRoId | wrRoStatus => cases he; exact .inr (.inl ⟨_, rfl⟩)
      | accRsvd24 | accRsvd28 | accRsvd2C | accRsvd30 | accRsvd34 | accRsvd38 | accRsvd3C =>
        cases he; exact .inr (.inl ⟨_, rfl⟩)
  · rcases fetch_settled hf with ⟨_, rfl⟩ | ⟨rest, hp, rfl⟩ | ⟨t, rest, hp, rfl, _⟩
    · exact .inl rfl
    · exact .inr (.inr (.inl ⟨by simp [State.resets, hp], by simp [s0, hp]⟩))
    · exact .inr (.inl ⟨.busError (recordOff t.record), by simp [busError, s0, hp]⟩)

/-! ### Runs -/

/-- A run of m + n steps is a run of m, then a run of n. -/
theorem run_add {m : Nat} (n : Nat) {s s' : State} (h : run m s = .next s') : run (m + n) s = run n s' := by
  induction m generalizing s with
  | zero => cases h; simp
  | succ k ih =>
    rw [Nat.succ_add]
    simp only [run] at h ⊢
    cases hs : step s with
    | next s1 => simp only [hs] at h ⊢; exact ih h
    | fault r => simp [hs] at h
    | refused r => simp [hs] at h

/-- One step is a run of one. -/
theorem run_one {s s' : State} (h : step s = .next s') : run 1 s = .next s' := by
  simp [run, h]

/-- A run that begins with a step. -/
theorem run_step {n : Nat} {s s' : State} (h : step s = .next s') : run (n + 1) s = run n s' := by
  simp [run, h]

end Sys2Proof.Machine
end

