-- ==== Sys2Proof/Laws/Driver.lean ====
section
/-! SUPPORT. What a host's act can do, said once: on an idle machine the engine's turns before it do nothing, and a read
or a write of the window's registers is then one step. -/

namespace Sys2Proof.Machine

/-- `rd <reg>` decodes to the read of that register. -/
@[simp] theorem decodeTxn_rdReg (reg : WindowReg) :
    decodeTxn (rdReg reg).record (rdReg reg).size = .ok (accessInstr .read reg 0) := by
  have h := decodeTxn_mkRecord .read (regOffset reg) 0 rfl (regOffset_aligned reg)
  rwa [windowReg_regOffset] at h

/-- `wr <reg>, <imm>` decodes to the write of that register. -/
@[simp] theorem decodeTxn_wrReg (reg : WindowReg) (v : Word) :
    decodeTxn (wrReg reg v).record (wrReg reg v).size = .ok (accessInstr .write reg v) := by
  have h := decodeTxn_mkRecord .write (regOffset reg) v rfl (regOffset_aligned reg)
  rwa [windowReg_regOffset] at h

/-- A host transaction at the head of the pending events that decodes is run. -/
theorem step_host {s : State} {t : Txn} {rest : List Event} {i : Instr} (hp : s.pending = .host t :: rest)
    (hd : decodeTxn t.record t.size = .ok i) : step s = exec i { s with pending := rest } := by
  simp [step, fetch, fetchTxn, hp, hd]

/-- Turns of an idle engine do nothing but pass. -/
theorem run_idle_turns {s : State} (hb : s.busy = false) (n : Nat) (rest : List Event) :
    run n { s with pending := List.replicate n .engine ++ rest } = .next { s with pending := rest } := by
  induction n with
  | zero => rfl
  | succ k ih =>
    have turn : step { s with pending := List.replicate (k + 1) .engine ++ rest } =
        .next { s with pending := List.replicate k .engine ++ rest } := by
      simp [step, fetch, List.replicate_succ, fetchMicroOp, State.phase, hb]
    rw [run_step turn, ih]

/-- On an idle machine an act of the host is the run of its own events. -/
theorem act_idle (gap : Nat → Nat) (own : List Event) {r : HostRun} (hb : r.dev.busy = false) {s' : State}
    (h : run own.length { r.dev with pending := own } = .next s') : act gap own r = .ok ⟨s', r.acts + 1⟩ := by
  simp [act, run_add _ (run_idle_turns hb (gap r.acts) own), h]

/-- On an idle machine a look at `irq` finds its level and changes no register. -/
theorem lookIrq_idle (gap : Nat → Nat) {r : HostRun} (hb : r.dev.busy = false) :
    lookIrq gap r = .ok (irq r.dev, ⟨{ r.dev with pending := [] }, r.acts + 1⟩) := by
  rw [lookIrq, act_idle gap [] hb rfl]
  rfl

/-- A read of a register that has a value is answered with it. -/
theorem exec_read {reg : WindowReg} {s : State} {v : Word} (h : memRead reg s = some v) :
    exec (accessInstr .read reg 0) s = .next (answerRead v s) := by
  cases reg with
  | h i => cases h; revert i; simp [accessInstr, readInstr, Fin.forall_fin_succ]
  | rsvd k => simp [memRead] at h
  | _ => cases h; rfl

/-- On an idle machine a host read answers the register's value and changes no register. -/
theorem hostRead_idle (gap : Nat → Nat) {reg : WindowReg} {r : HostRun} {v : Word} (hb : r.dev.busy = false)
    (h : memRead reg r.dev = some v) :
    hostRead gap reg r = .ok (v, ⟨{ r.dev with pending := [], response := .value v }, r.acts + 1⟩) := by
  have one : run 1 { r.dev with pending := [.host (rdReg reg)] } =
      .next { r.dev with pending := [], response := .value v } := by
    refine run_one ?_
    rw [step_host rfl (decodeTxn_rdReg reg)]
    exact exec_read (s := { r.dev with pending := [] }) (by cases reg <;> exact h)
  rw [hostRead, access, act_idle gap [_] hb one]
  rfl

/-- On an idle machine a host write is the meaning of its instruction, where that completes the write. -/
theorem hostWrite_idle (gap : Nat → Nat) {reg : WindowReg} {w : Word} {r : HostRun} {s' : State}
    (hb : r.dev.busy = false) (h : exec (accessInstr .write reg w) { r.dev with pending := [] } = .next s')
    (hw : s'.response = .written) : hostWrite gap reg w r = .ok ⟨s', r.acts + 1⟩ := by
  have one : run 1 { r.dev with pending := [.host (wrReg reg w)] } = .next s' :=
    run_one ((step_host rfl (decodeTxn_wrReg reg w)).trans h)
  rw [hostWrite, access, act_idle gap [_] hb one]
  simp [bind, Except.bind, hw]

/-! ### The boot on an idle machine -/

/-- The three lowest bits of a word that ends in three flags. -/
theorem flag_bits {n : Nat} (x : BitVec n) (e d b : Bool) :
    let word := x ++ BitVec.ofBool e ++ BitVec.ofBool d ++ BitVec.ofBool b
    word.getLsbD 0 = b ∧ word.getLsbD 1 = d ∧ word.getLsbD 2 = e := by
  refine ⟨?_, ?_, ?_⟩ <;> simp only [BitVec.getLsbD_append] <;> simp

/-- The status bits of a STATUS value (R33). -/
@[simp] theorem statusWord_busy (s : State) : (statusWord s)[0] = s.busy :=
  (flag_bits (n := 29) _ s.err s.done s.busy).1

@[simp] theorem statusWord_done (s : State) : (statusWord s)[1] = s.done :=
  (flag_bits (n := 29) _ s.err s.done s.busy).2.1

@[simp] theorem statusWord_err (s : State) : (statusWord s)[2] = s.err :=
  (flag_bits (n := 29) _ s.err s.done s.busy).2.2

/-- On an idle machine `wait_idle` is one read of STATUS. -/
theorem waitIdle_idle (gap : Nat → Nat) (k : Nat) {r : HostRun} (hb : r.dev.busy = false) :
    waitIdle gap (k + 1) r =
      .ok (statusWord r.dev,
        ⟨{ r.dev with pending := [], response := .value (statusWord r.dev) }, r.acts + 1⟩) := by
  rw [waitIdle, hostRead_idle gap hb rfl]
  simp [bind, Except.bind, hb]

/-- On an idle machine both ways of step 3 are that read: nothing is aborted. -/
theorem makeIdle_idle (how : IdleBy) (gap : Nat → Nat) (k : Nat) {r : HostRun} (hb : r.dev.busy = false) :
    makeIdle how gap (k + 1) r =
      .ok (statusWord r.dev,
        ⟨{ r.dev with pending := [], response := .value (statusWord r.dev) }, r.acts + 1⟩) := by
  cases how with
  | wait => exact waitIdle_idle gap k hb
  | abort =>
    rw [makeIdle, hostRead_idle gap hb rfl]
    simp [bind, Except.bind, hb]

/-- CLRSTAT is written only where the STATUS value shows an error. -/
theorem clearError_clear (gap : Nat → Nat) {status : Word} (h : status[2] = false) (r : HostRun) :
    clearError gap status r = .ok r := by
  simp [clearError, h]

end Sys2Proof.Machine
end

