-- ==== Sys2Proof/Laws/Operands.lean ====
section
/-! SUPPORT. The datapath's operations in the library's terms. -/

namespace Sys2Proof.Machine

/-- ROTL32 is rotation to the left (spec/00_scope.md R9). -/
theorem rotl32_eq_rotateLeft (x : Word) (n : Nat) (hn : 0 < n ∧ n < 32) : rotl32 x n hn = x.rotateLeft n := by
  simp [rotl32, BitVec.rotateLeft, BitVec.rotateLeftAux, Nat.mod_eq_of_lt hn.2]

@[simp] theorem tapSlot_val (t : BitVec 7) (k : Nat) : (tapSlot t k).val = (t.toNat + k) % 16 := rfl

/-- The four taps of a round are four different slots. -/
theorem tapSlot_ne (t : BitVec 7) {j k : Nat} (h : j % 16 ≠ k % 16) : tapSlot t j ≠ tapSlot t k := by
  intro he
  have := congrArg Fin.val he
  simp at this
  omega

/-- Without EXP the window is kept and the round adds the slot as it stands. -/
@[simp] theorem schedWindow_keep (t : BitVec 7) (w : Vector Word 16) : schedWindow false t w = w := rfl

@[simp] theorem schedWord_keep (t : BitVec 7) (w : Vector Word 16) : schedWord false t w = w[tapSlot t 0] := rfl

/-- With EXP the slot of round t takes the expanded word, and the round adds it. -/
@[simp] theorem schedWindow_expand (t : BitVec 7) (w : Vector Word 16) :
    schedWindow true t w = w.set (tapSlot t 0) (expandWord t w) := rfl

@[simp] theorem schedWord_expand (t : BitVec 7) (w : Vector Word 16) : schedWord true t w = expandWord t w := by
  simp [schedWord]

/-- The schedule's first n words are n words. -/
@[simp] theorem schedulePrefix_length (m : Vector Word 16) (n : Nat) : (schedulePrefix m n).length = n := by
  induction n with
  | zero => rfl
  | succ k ih => simp [schedulePrefix, ih]

/-- A word of a prefix of the schedule is that word of the schedule. -/
theorem schedulePrefix_getD (m : Vector Word 16) (n t : Nat) (h : t < n) :
    (schedulePrefix m n).getD t 0 = schedule m t := by
  induction n with
  | zero => omega
  | succ k ih =>
    simp only [schedulePrefix]
    rcases Nat.lt_succ_iff_lt_or_eq.mp h with hlt | rfl
    · rw [← ih hlt]
      simp [List.getD_eq_getElem?_getD, List.getElem?_append_left, hlt]
    · simp [schedule, List.getD_eq_getElem?_getD]

end Sys2Proof.Machine
end

