-- ==== Sys2Proof/Laws/PerInstr.lean ====
section
/-! SUPPORT. Per instruction: its words belong to its own row of spec/opcode_table.json. -/

namespace Sys2Proof.Laws

/-- The high byte of a record (RW and OFF) under a mask, DATA masked out. -/
theorem mkRecord_and_high (dir : Dir) (off : BitVec 7) (data : Word) (hi : BitVec 8) :
    mkRecord dir off data &&& (hi ++ 0#32) = ((dirBit dir ++ off) &&& hi) ++ 0#32 := by
  apply BitVec.eq_of_getLsbD_eq
  intro i _
  have inner : (dirBit dir ++ off).getLsbD (i - 32) =
      if i - 32 < 7 then off.getLsbD (i - 32) else (dirBit dir).getLsbD (i - 32 - 7) :=
    BitVec.getLsbD_append (x := dirBit dir) (y := off) (i := i - 32)
  rw [BitVec.getLsbD_and, mkRecord_getLsbD, BitVec.getLsbD_append, BitVec.getLsbD_append, BitVec.getLsbD_and, inner,
    Nat.sub_sub]
  by_cases h : i < 32
  · simp [h]
  · simp only [h, if_false, show (i - 32 < 7) = (i < 39) from propext ⟨fun _ => by omega, fun _ => by omega⟩]

/-- A record with any DATA belongs to a row that masks DATA out when its high byte does. -/
theorem matches_high (dir : Dir) (off : BitVec 7) (data : Word) (bits hi : BitVec 8)
    (h : (dirBit dir ++ off) &&& hi = bits) :
    (OpcodeRow.mk .txn (bits ++ 0#32) (hi ++ 0#32)).matchesWord (.txn (mkRecord dir off data)) = true := by
  simp [OpcodeRow.matchesWord, Encoded.format, Encoded.bits, mkRecord_and_high, h]

namespace RowMatch

/-- The words of a well-formed instruction belong to its row. -/
@[reducible] def Statement (i : Instr) : Prop := i.wellFormed = true → (opcodeRow i).matchesWord (encode i) = true

theorem rdId : Statement .rdId := by decide

theorem rdCtrl : Statement .rdCtrl := by decide

theorem rdStatus : Statement .rdStatus := by decide

theorem rdIrqen : Statement .rdIrqen := by decide

theorem rdH0 : Statement .rdH0 := by decide

theorem rdH1 : Statement .rdH1 := by decide

theorem rdH2 : Statement .rdH2 := by decide

theorem rdH3 : Statement .rdH3 := by decide

theorem rdH4 : Statement .rdH4 := by decide

theorem rdM (j : Fin 16) : Statement (.rdM j) := by
  revert j
  decide

theorem wrCtrl (data : Word) : Statement (.wrCtrl data) := by
  intro _
  exact matches_high .write 0x04#7 data 0x84#8 0xFF#8 (by decide)

theorem wrIrqen (data : Word) : Statement (.wrIrqen data) := by
  intro _
  exact matches_high .write 0x0C#7 data 0x8C#8 0xFF#8 (by decide)

theorem wrH0 (data : Word) : Statement (.wrH0 data) := by
  intro _
  exact matches_high .write 0x10#7 data 0x90#8 0xFF#8 (by decide)

theorem wrH1 (data : Word) : Statement (.wrH1 data) := by
  intro _
  exact matches_high .write 0x14#7 data 0x94#8 0xFF#8 (by decide)

theorem wrH2 (data : Word) : Statement (.wrH2 data) := by
  intro _
  exact matches_high .write 0x18#7 data 0x98#8 0xFF#8 (by decide)

theorem wrH3 (data : Word) : Statement (.wrH3 data) := by
  intro _
  exact matches_high .write 0x1C#7 data 0x9C#8 0xFF#8 (by decide)

theorem wrH4 (data : Word) : Statement (.wrH4 data) := by
  intro _
  exact matches_high .write 0x20#7 data 0xA0#8 0xFF#8 (by decide)

theorem wrM (j : Fin 16) (data : Word) : Statement (.wrM j data) := by
  intro _
  have high : ∀ j : Fin 16, (dirBit .write ++ mOffset j) &&& 0xC3#8 = 0xC0#8 := by decide
  exact matches_high .write (mOffset j) data 0xC0#8 0xC3#8 (high j)

theorem wrRoId (data : Word) : Statement (.wrRoId data) := by
  intro _
  exact matches_high .write 0x00#7 data 0x80#8 0xFF#8 (by decide)

theorem wrRoStatus (data : Word) : Statement (.wrRoStatus data) := by
  intro _
  exact matches_high .write 0x08#7 data 0x88#8 0xFF#8 (by decide)

theorem accRsvd24 (dir : Dir) (data : Word) : Statement (.accRsvd24 dir data) := by
  intro _
  exact matches_high dir 0x24#7 data 0x24#8 0x7F#8 (by cases dir <;> decide)

theorem accRsvd28 (dir : Dir) (data : Word) : Statement (.accRsvd28 dir data) := by
  intro _
  exact matches_high dir 0x28#7 data 0x28#8 0x7F#8 (by cases dir <;> decide)

theorem accRsvd2C (dir : Dir) (data : Word) : Statement (.accRsvd2C dir data) := by
  intro _
  exact matches_high dir 0x2C#7 data 0x2C#8 0x7F#8 (by cases dir <;> decide)

theorem accRsvd30 (dir : Dir) (data : Word) : Statement (.accRsvd30 dir data) := by
  intro _
  exact matches_high dir 0x30#7 data 0x30#8 0x7F#8 (by cases dir <;> decide)

theorem accRsvd34 (dir : Dir) (data : Word) : Statement (.accRsvd34 dir data) := by
  intro _
  exact matches_high dir 0x34#7 data 0x34#8 0x7F#8 (by cases dir <;> decide)

theorem accRsvd38 (dir : Dir) (data : Word) : Statement (.accRsvd38 dir data) := by
  intro _
  exact matches_high dir 0x38#7 data 0x38#8 0x7F#8 (by cases dir <;> decide)

theorem accRsvd3C (dir : Dir) (data : Word) : Statement (.accRsvd3C dir data) := by
  intro _
  exact matches_high dir 0x3C#7 data 0x3C#8 0x7F#8 (by cases dir <;> decide)

theorem nop : Statement .nop := by decide

theorem init : Statement .init := by decide

theorem start : Statement .start := by decide

theorem abort : Statement .abort := by decide

theorem clrstat : Statement .clrstat := by decide

theorem rndSelK0 : Statement .rndSelK0 := by decide

theorem rndSelK0X : Statement .rndSelK0X := by decide

theorem rndXorK1X : Statement .rndXorK1X := by decide

theorem rndMajK2X : Statement .rndMajK2X := by decide

theorem rndXorK3X : Statement .rndXorK3X := by decide

theorem fin : Statement .fin := by decide

end RowMatch

end Sys2Proof.Laws
end

