-- ==== Sys2Proof/Tests/Slice0.lean ====
section
/-! SUPPORT. Tests of single steps against the spec's own vectors (spec/95_test_vectors.md, the examples of the rules),
the smoke test of WellFormed, and for every statement with hypotheses a state and operands that meet them. -/

namespace Sys2Proof.Tests

open Sys2Proof Sys2Proof.Machine

/-! ### Helpers -/

/-- The next state, where there is one. -/
def nextOf (o : Host.Outcome State Fault Refusal) : Option State :=
  match o with
  | .next s => some s
  | .fault _ => none
  | .refused _ => none

/-- The state after reset with every word of M written ("full" in V-H1). -/
def full : State := { State.reset with wvalid := 0xFFFF#16 }

/-- The state after reset, busy with round counter `t`. -/
def busyAt (t : BitVec 7) : State := { State.reset with busy := true, t := t }

/-- A step of the engine from A..E and round `t`, with one word of the window set. -/
def inRound (t : BitVec 7) (q : Work) (slot : Fin 16) (word : Word) : State :=
  { busyAt t with work := q, w := State.reset.w.set slot word }

/-- A program's next events. -/
def withEvents (s : State) (evs : List Event) : State := { s with pending := evs }

/-- A host transaction of size 4 as an event. -/
def txn (r : BitVec 40) : Event := .host ⟨r, .four⟩

/-! ### WellFormed: a reserved read must carry DATA = 0 (R81) -/

theorem test_wellFormed_refuses_read_with_data :
    Instr.wellFormed (.accRsvd24 .read 1) = false ∧ Instr.wellFormed (.accRsvd28 .read 1) = false ∧
    Instr.wellFormed (.accRsvd2C .read 1) = false ∧ Instr.wellFormed (.accRsvd30 .read 1) = false ∧
    Instr.wellFormed (.accRsvd34 .read 1) = false ∧ Instr.wellFormed (.accRsvd38 .read 1) = false ∧
    Instr.wellFormed (.accRsvd3C .read 0x80000000#32) = false := by decide

theorem test_wellFormed_accepts :
    Instr.wellFormed (.accRsvd24 .read 0) = true ∧ Instr.wellFormed (.accRsvd24 .write 1) = true := by decide

theorem test_record_read_with_data_ill_formed :
    wellFormedRecord 0x0800000001#40 = false ∧ wellFormedRecord 0x8800000001#40 = true := by decide

/-! ### Decoding: words written out from the encodings of spec/30_encoding.md and spec/40_host_commands.md -/

theorem test_decode_reads :
    decode (.txn 0x0000000000#40) = .ok .rdId ∧ decode (.txn 0x0400000000#40) = .ok .rdCtrl ∧
    decode (.txn 0x0800000000#40) = .ok .rdStatus ∧ decode (.txn 0x0C00000000#40) = .ok .rdIrqen ∧
    decode (.txn 0x1000000000#40) = .ok .rdH0 ∧ decode (.txn 0x1400000000#40) = .ok .rdH1 ∧
    decode (.txn 0x1800000000#40) = .ok .rdH2 ∧ decode (.txn 0x1C00000000#40) = .ok .rdH3 ∧
    decode (.txn 0x2000000000#40) = .ok .rdH4 ∧ decode (.txn 0x4000000000#40) = .ok (.rdM 0) ∧
    decode (.txn 0x4C00000000#40) = .ok (.rdM 3) ∧ decode (.txn 0x7C00000000#40) = .ok (.rdM 15) := by decide

theorem test_decode_writes :
    decode (.txn 0x8400000002#40) = .ok (.wrCtrl 2) ∧ decode (.txn 0x8CFFFFFFFF#40) = .ok (.wrIrqen 0xFFFFFFFF#32) ∧
    decode (.txn 0x9000000007#40) = .ok (.wrH0 7) ∧ decode (.txn 0x9400000007#40) = .ok (.wrH1 7) ∧
    decode (.txn 0x9800000007#40) = .ok (.wrH2 7) ∧ decode (.txn 0x9C00000007#40) = .ok (.wrH3 7) ∧
    decode (.txn 0xA0FFFFFFFF#40) = .ok (.wrH4 0xFFFFFFFF#32) ∧
    decode (.txn 0xC061626380#40) = .ok (.wrM 0 0x61626380#32) ∧
    decode (.txn 0xFC00000018#40) = .ok (.wrM 15 0x18#32) := by decide

theorem test_decode_bus_error_rows :
    decode (.txn 0x8000000000#40) = .ok (.wrRoId 0) ∧ decode (.txn 0x8800000000#40) = .ok (.wrRoStatus 0) ∧
    decode (.txn 0x2400000000#40) = .ok (.accRsvd24 .read 0) ∧ decode (.txn 0xA800000001#40) = .ok (.accRsvd28 .write 1) ∧
    decode (.txn 0x2C00000000#40) = .ok (.accRsvd2C .read 0) ∧ decode (.txn 0xB000000001#40) = .ok (.accRsvd30 .write 1) ∧
    decode (.txn 0x3400000000#40) = .ok (.accRsvd34 .read 0) ∧ decode (.txn 0xB800000001#40) = .ok (.accRsvd38 .write 1) ∧
    decode (.txn 0xBC00000005#40) = .ok (.accRsvd3C .write 5) := by decide

theorem test_decode_commands :
    decode (.ctrl 0#32) = .ok .nop ∧ decode (.ctrl 1#32) = .ok .init ∧ decode (.ctrl 2#32) = .ok .start ∧
    decode (.ctrl 3#32) = .ok .abort ∧ decode (.ctrl 4#32) = .ok .clrstat ∧
    decode (.ctrl 5#32) = .reject .illegalCommand ∧ decode (.ctrl 0x12#32) = .reject .illegalCommand ∧
    decode (.ctrl 0x80000002#32) = .reject .illegalCommand := by decide

theorem test_decode_rom :
    decode (.rom 0x00#8) = .ok .rndSelK0 ∧ decode (.rom 0x10#8) = .ok .rndSelK0X ∧
    decode (.rom 0x15#8) = .ok .rndXorK1X ∧ decode (.rom 0x1A#8) = .ok .rndMajK2X ∧
    decode (.rom 0x1D#8) = .ok .rndXorK3X ∧ decode (.rom 0x03#8) = .reject .reservedRomWord ∧
    decode (.rom 0x20#8) = .reject .reservedRomWord ∧ decode (.step 80#7) = .ok .fin ∧
    decode (.step 79#7) = .reject .notFinal := by decide

/-- V-E1 rows 1 and 2. -/
theorem test_decode_size_and_alignment :
    decodeTxn 0x0800000000#40 .two = .reject .sizeNotFour ∧ decodeTxn 0xC011223344#40 .one = .reject .sizeNotFour ∧
    decodeTxn 0x4100000000#40 .four = .reject .misaligned ∧ decodeTxn 0xC200000000#40 .four = .reject .misaligned := by
  decide

theorem test_table_words :
    decodeTableWord 40 0x4C00000000 = some (.rdM 3) ∧ decodeTableWord 32 2 = some .start ∧
    decodeTableWord 8 0x1A = some .rndMajK2X ∧ decodeTableWord 8 0x50 = some .fin ∧
    decodeTableWord 8 0x20 = none := by decide

/-! ### A placed word is what the next step runs, right after reset -/

theorem test_placed_words_run :
    (nextOf (step (State.reset.withFetchWord 40 0x0000000000))).map (·.response) = some (.value 0x53484131#32) ∧
    (nextOf (step (State.reset.withFetchWord 32 0x2))).map (·.errcode) = some 3#3 ∧
    (nextOf (step (State.reset.withFetchWord 8 0x15))).map (·.t) = some 1#7 ∧
    (nextOf (step (State.reset.withFetchWord 8 0x50))).map (·.done) = some true := by decide

/-! ### Host accesses and commands: V-H1 -/

/-- V-H1 row 5, then R125's example: STATUS = 00010000. -/
theorem test_wrM_sets_valid :
    (nextOf (exec (.wrM 0 0x61626380#32) State.reset)).map (fun s => (s.m[0], statusWord s)) =
      some (0x61626380#32, 0x00010000#32) := by decide

/-- V-H1 row 4. -/
theorem test_rdStatus_full : (nextOf (exec .rdStatus full)).map (·.response) = some (.value 0xFFFF0000#32) := by decide

/-- V-H1 row 6: STATUS = 00000001. -/
theorem test_start_accepted : (nextOf (exec .start full)).map statusWord = some 0x00000001#32 := by decide

/-- V-H1 row 7: STATUS = 00000034. -/
theorem test_start_incomplete : (nextOf (exec .start State.reset)).map statusWord = some 0x00000034#32 := by decide

/-- V-H1 row 8: STATUS = 00000525. -/
theorem test_start_busy : (nextOf (exec .start (busyAt 5))).map statusWord = some 0x00000525#32 := by decide

/-- V-H1 row 9. -/
theorem test_init_busy :
    (nextOf (exec .init { busyAt 5 with h := Vector.replicate 5 7 })).map (fun s => (s.errcode, s.h)) =
      some (2#3, Vector.replicate 5 7) := by decide

/-- V-H1 row 13: STATUS = WVALID << 16. -/
theorem test_init_idle :
    (nextOf (exec .init { full with t := 80, done := true, h := Vector.replicate 5 7 })).map
      (fun s => (statusWord s, s.h[0])) = some (0xFFFF0000#32, 0x67452301#32) := by decide

/-- V-H1 row 10. -/
theorem test_wrH0_busy :
    (nextOf (exec (.wrH0 0) (busyAt 5))).map (fun s => (s.errcode, s.h[0])) = some (2#3, 0x67452301#32) := by decide

/-- V-H1 row 21. -/
theorem test_wrH4_idle :
    (nextOf (exec (.wrH4 0xFFFFFFFF#32) State.reset)).map (fun s => (s.h[4], s.h[3])) =
      some (0xFFFFFFFF#32, 0x10325476#32) := by decide

/-- V-H1 row 12. -/
theorem test_abort : (nextOf (exec .abort (busyAt 30))).map (fun s => (s.busy, s.t, s.h)) = some (false, 0#7, iv) := by
  decide

/-- V-H1 row 14: T unchanged. -/
theorem test_clrstat :
    (nextOf (exec .clrstat { State.reset with t := 80, done := true, err := true, errcode := 3 })).map statusWord =
      some 0x00005000#32 := by decide

/-- V-H1 rows 15 and 17: BADCMD comes before BUSY. -/
theorem test_wrCtrl_badcmd :
    (nextOf (exec (.wrCtrl 0x12#32) State.reset)).map statusWord = some 0x00000014#32 ∧
    (nextOf (exec (.wrCtrl 0x80000002#32) (busyAt 5))).map (·.errcode) = some 1#3 := by decide

/-- V-H1 row 18: the first error is kept. -/
theorem test_wrCtrl_first_error_kept :
    (nextOf (exec (.wrCtrl 0x12#32) { State.reset with err := true, errcode := 3 })).map (·.errcode) = some 3#3 := by
  decide

/-- V-H1 rows 20 and 22: the reserved bits are ignored, and `irq` rises at once. -/
theorem test_wrIrqen :
    (nextOf (exec (.wrIrqen 0xFFFFFFFF#32) State.reset)).map irqenWord = some 0x00000003#32 ∧
    (nextOf (exec (.wrIrqen 0x1#32) { State.reset with done := true, t := 80 })).map irq = some true := by decide

/-- V-E1 rows 3 and 4: a bus error, and nothing else. -/
theorem test_bus_errors :
    exec (.accRsvd3C .write 5) State.reset = .next { State.reset with response := .busError 0x3C#7 } ∧
    exec (.wrRoStatus 0) State.reset = .next { State.reset with response := .busError 0x08#7 } := ⟨rfl, rfl⟩

/-- V-E1 row 5: M0 and WVALID are unchanged. -/
theorem test_subword_write_is_bus_error :
    nextOf (step (withEvents State.reset [.host ⟨0xC011223344#40, .one⟩])) =
      some { State.reset with response := .busError 0x40#7 } := by decide

/-! ### The datapath: V-F1, V-F2, V-R1, V-C1 -/

/-- V-F1. -/
theorem test_boolean_functions :
    boolFn .sel 0xF0F0F0F0#32 0xCCCCCCCC#32 0xAAAAAAAA#32 = 0xCACACACA#32 ∧
    boolFn .xor 0xF0F0F0F0#32 0xCCCCCCCC#32 0xAAAAAAAA#32 = 0x96969696#32 ∧
    boolFn .maj 0xF0F0F0F0#32 0xCCCCCCCC#32 0xAAAAAAAA#32 = 0xE8E8E8E8#32 := by decide

/-- V-F2. -/
theorem test_rotations :
    rotl32 0x12345678#32 1 = 0x2468ACF0#32 ∧ rotl32 0x12345678#32 5 = 0x468ACF02#32 ∧
    rotl32 0x12345678#32 30 = 0x048D159E#32 ∧ rotl32 0x80000001#32 1 = 0x00000003#32 := by decide

/-- V-R1, t = 15: the slot's own word is added, and C is B rotated. -/
theorem test_rndSelK0 :
    (nextOf (exec .rndSelK0 (inRound 15 ⟨0x196BEE77#32, 0x9128F695#32, 0x1181ED99#32, 0x18C623F9#32, 0x7EF6A7A2#32⟩
      15 0x00000018#32))).map (·.work) =
      some ⟨0x20BDD62F#32, 0x196BEE77#32, 0x644A3DA5#32, 0x1181ED99#32, 0x18C623F9#32⟩ := by decide

/-- V-R1 and V-S2, t = 16: slot 0 holds 61626380, and S[16] = C2C4C700 is formed, stored and added. -/
theorem test_rndSelK0X :
    (nextOf (exec .rndSelK0X (inRound 16 ⟨0x20BDD62F#32, 0x196BEE77#32, 0x644A3DA5#32, 0x1181ED99#32, 0x18C623F9#32⟩
      0 0x61626380#32))).map (fun s => (s.work.a, s.w[0], s.t)) =
      some (0x4E925823#32, 0xC2C4C700#32, 17#7) := by decide

/-- V-R1, t = 39: slot 4 is the tap of S[36]; 00000C60 rotated by 1 is 000018C0. -/
theorem test_rndXorK1X :
    (nextOf (exec .rndXorK1X (inRound 39 ⟨0x4C986405#32, 0xDC63973F#32, 0x03D447F6#32, 0xF72EEC32#32, 0x085E5AB5#32⟩
      4 0x00000C60#32))).map (fun s => (s.work.a, s.work.c, s.w[7])) =
      some (0x32DE1CBA#32, 0xF718E5CF#32, 0x000018C0#32) := by decide

/-- V-R1, t = 40: slot 0 is the tap of S[32]; 69709C62 rotated by 1 is D2E138C4. -/
theorem test_rndMajK2X :
    (nextOf (exec .rndMajK2X (inRound 40 ⟨0x32DE1CBA#32, 0x4C986405#32, 0xF718E5CF#32, 0x03D447F6#32, 0xF72EEC32#32⟩
      0 0x69709C62#32))).map (fun s => (s.work.a, s.work.c, s.w[8])) =
      some (0xFC87DEDF#32, 0x53261901#32, 0xD2E138C4#32) := by decide

/-- V-R1, t = 79: slot 1 is the tap of S[65]; C117043C rotated by 1 is 822E0879. Round 79 leaves T = 80. -/
theorem test_rndXorK3X :
    (nextOf (exec .rndXorK3X (inRound 79 ⟨0x5738D5E1#32, 0x860D21CC#32, 0x681E6DF6#32, 0xD8FDF6AD#32, 0xD7B9DA25#32⟩
      1 0xC117043C#32))).map (fun s => (s.work, s.w[15], s.t)) =
      some (⟨0x42541B35#32, 0x5738D5E1#32, 0x21834873#32, 0x681E6DF6#32, 0xD8FDF6AD#32⟩, 0x822E0879#32, 80#7) := by
  decide

/-- V-C1, first row: H after FIN of "abc", with wraps in H1 and H4. -/
theorem test_fin :
    (nextOf (exec .fin { busyAt 80 with
      work := ⟨0x42541B35#32, 0x5738D5E1#32, 0x21834873#32, 0x681E6DF6#32, 0xD8FDF6AD#32⟩ })).map
        (fun s => (s.h, statusWord s)) =
      some (#v[0xA9993E36#32, 0x4706816A#32, 0xBA3E2571#32, 0x7850C26C#32, 0x9CD0D89D#32], 0x00005002#32) := by
  decide

/-- V-H1 rows 1, 2 and 23, and the registers of R273. -/
theorem test_reads :
    (nextOf (exec .rdId (busyAt 5))).map (·.response) = some (.value 0x53484131#32) ∧
    (nextOf (exec .rdCtrl (busyAt 5))).map (·.response) = some (.value 0#32) ∧
    (nextOf (exec .rdH3 State.reset)).map (·.response) = some (.value 0x10325476#32) ∧
    (nextOf (exec (.rdM 3) { State.reset with m := State.reset.m.set 3 0xDEADBEEF#32 })).map (·.response) =
      some (.value 0xDEADBEEF#32) := by decide

/-! ### The host procedure and the notation -/

/-- The empty message's block (V-W1), and V-PAD's block counts for 55, 56, 64 and 120 bytes. -/
theorem test_padding :
    (messageBlocks []).map (fun m => (m[0], m[15])) = [(0x80000000#32, 0x00000000#32)] ∧
    [55, 56, 64, 120].map blockCount = [1, 2, 2, 3] ∧ [0, 55, 56, 63].map zeroBytes = [55, 0, 63, 56] := by decide

/-- The block of "abc" (V-W2). -/
theorem test_abc_block :
    (messageBlocks [0x61#8, 0x62#8, 0x63#8]).map (fun m => (m[0], m[1], m[14], m[15])) =
      [(0x61626380#32, 0x00000000#32, 0x00000000#32, 0x00000018#32)] := by decide

/-- R225: lowercase, zero-padded, most significant digit first. -/
theorem test_hexWord : hexWord 0x0AFD8070#32 = ['0', 'a', 'f', 'd', '8', '0', '7', '0'] := by decide

/-- R96: lines of the listings P4 and P7. -/
theorem test_assembler :
    (parseLine ['r', 'd', '.', '2', ' ', 'S', 'T', 'A', 'T', 'U', 'S']).map assemble = some ⟨0x0800000000#40, .two⟩ ∧
    (parseLine ['w', 'r', ' ', '@', '0', 'x', '3', 'C', ',', ' ', '0', 'x', '5', ' ', ';', 'x']).map assemble =
      some ⟨0xBC00000005#40, .four⟩ ∧
    (parseLine ['w', 'r', ' ', 'M', '1', '5', ',', ' ', '0', 'x', '1', '8']).map assemble =
      some ⟨0xFC00000018#40, .four⟩ := by decide

/-- R97: `cmd START` and `read_digest`. -/
theorem test_pseudo :
    Pseudo.cmdStart.expand = [⟨0x8400000002#40, .four⟩] ∧
    Pseudo.readDigest.expand.map (·.record) =
      [0x1000000000#40, 0x1400000000#40, 0x1800000000#40, 0x1C00000000#40, 0x2000000000#40] ∧
    (Pseudo.loadBlock (Vector.replicate 16 0)).expand.length = 16 ∧
    (Pseudo.waitIdle 0).expand.map (·.record) = [0x0800000000#40] ∧
    (Pseudo.hashBlock (Vector.replicate 16 0) 2).expand.length = 20 := by decide

/-- R91, I5: a reserved word at the ROM's end is refused before round 0. -/
theorem test_reserved_rom_word_before_any_round :
    fetch { busyAt 0 with rom := State.reset.rom.set 79 0x03#8 } = .refuse .reservedRomWord := by decide

/-- R226, R254: a host that waits on `irq` finds it low with the cause masked and high with it enabled, reads STATUS, and
gives up when its fuel is used up. -/
theorem test_waitIrq :
    let ended : State := { State.reset with t := 80, done := true }
    (waitIrq (fun _ => 1) 1 ⟨{ ended with doneIe := true }, 0⟩).toOption.map (·.1) = some 0x00005002#32 ∧
    (waitIrq (fun _ => 1) 2 ⟨ended, 0⟩).toOption.isNone = true := by decide

/-- R274: the boot of a busy machine with an error recorded, by ABORT and with `irq` enabled: idle, no error, H the IV,
IRQEN written. -/
theorem test_boot :
    let dirty : State := { busyAt 5 with err := true, errcode := 2, h := Vector.replicate 5 7 }
    (boot .irq .abort (fun _ => 1) 1 ⟨dirty, 0⟩).toOption.map
      (fun r => (statusWord r.dev, irqenWord r.dev, r.dev.h, r.acts)) = some (0x00000000#32, 0x00000003#32, iv, 5) := by
  decide

/-! ### Witnesses: the hypotheses of the statements can be met -/

theorem witness_DecodeEncodeRoundTrip :
    Instr.wellFormed (.accRsvd3C .read 0) = true ∧ Instr.wellFormed (.wrM 15 0xFFFFFFFF#32) = true ∧
    Instr.wellFormed .fin = true := by decide

theorem witness_EncodeDecodeRoundTrip :
    decode (.txn 0xBCFFFFFFFF#40) = .ok (.accRsvd3C .write 0xFFFFFFFF#32) ∧ decode (.rom 0x1D#8) = .ok .rndXorK3X := by
  decide

theorem witness_AlignedRecordMatchesOneRow :
    wellFormedRecord 0x2400000000#40 = true ∧ (recordOff 0x2400000000#40).toNat % 4 = 0 := by decide

/-- Every aligned offset, in both directions, and a misaligned one. -/
theorem witness_RecordsDecodeByOffset :
    (∀ k : Fin 32, let r := mkRecord .read (BitVec.ofNat 7 (4 * k.val)) 0
      wellFormedRecord r = true ∧ (recordOff r).toNat = 4 * k.val ∧ recordDir r = .read) ∧
    (∀ k : Fin 32, let r := mkRecord .write (BitVec.ofNat 7 (4 * k.val)) 1
      wellFormedRecord r = true ∧ (recordOff r).toNat = 4 * k.val ∧ recordDir r = .write) ∧
    wellFormedRecord 0x4100000000#40 = true ∧ (recordOff 0x4100000000#40).toNat % 4 ≠ 0 := by decide

theorem witness_StepRunsHostTransaction :
    (withEvents State.reset [txn 0x0800000000#40]).pending = [txn 0x0800000000#40] ∧
    decodeTxn 0x0800000000#40 .four = .ok .rdStatus ∧
    recordDir 0x0800000001#40 = .read ∧ recordData 0x0800000001#40 ≠ 0 := by decide

/-- The engine's turn, with and without an event for it. -/
theorem witness_engineTurn (s : State) (rest : List Event) :
    State.engineTurn { s with pending := [] } { s with pending := [] } ∧
    State.engineTurn { s with pending := .engine :: rest } { s with pending := rest } :=
  ⟨.inl ⟨rfl, rfl⟩, .inr ⟨rest, rfl, rfl⟩⟩

theorem witness_EngineTurnFollowsPhase :
    State.reset.busy = false ∧ (busyAt 0).busy = true ∧ (busyAt 0).t.toNat < 80 ∧ (busyAt 79).t.toNat < 80 ∧
    (∀ t : Fin 80, State.reset.rom[t] ∈ [0x00#8, 0x10#8, 0x15#8, 0x1A#8, 0x1D#8]) ∧
    decode (.rom State.reset.rom[0]) = .ok .rndSelK0 ∧ decode (.rom State.reset.rom[79]) = .ok .rndXorK3X ∧
    (busyAt 80).t.toNat = 80 ∧ 80 < (busyAt 81).t.toNat ∧ 80 < (busyAt 127).t.toNat := by decide

theorem witness_ReservedRomWordIsRefused :
    let s := { busyAt 0 with rom := State.reset.rom.set 79 0x23#8 }
    s.busy = true ∧ s.t.toNat < 80 ∧ s.rom[79].extractLsb' 0 2 = 3#2 ∧ s.rom[79].extractLsb' 5 3 ≠ 0#3 ∧
    s.rom[79] ∉ [0x00#8, 0x10#8, 0x15#8, 0x1A#8, 0x1D#8] := by decide

theorem witness_ResetStepSetsEveryRegister :
    (withEvents (busyAt 30) [.reset, .engine]).pending = .reset :: [.engine] := rfl

theorem witness_AfterResetHostReads : (0x7FFF#16 : BitVec 16) ≠ 0xFFFF#16 := by decide

theorem witness_IrqenRead :
    exec (.wrIrqen 0xFFFFFFFF#32) State.reset =
      .next { State.reset with doneIe := true, errIe := true, response := .written } := rfl

theorem witness_ReadsChangeNoRegister :
    recordDir 0x0800000000#40 = .read ∧ recordData 0x0800000000#40 = 0 ∧
    (withEvents (busyAt 5) [txn 0x0800000000#40, txn 0x0800000000#40]).pending =
      .host ⟨0x0800000000#40, .four⟩ :: .host ⟨0x0800000000#40, .four⟩ :: [] := by decide

theorem witness_ReadsReturnTheRegister :
    (withEvents State.reset [.host (rdReg (.m 15))]).pending = .host (rdReg (.m 15)) :: [] ∧
    memRead (.m 15) State.reset = some 0 ∧ memRead (.rsvd 0) State.reset = none ∧
    memRead (.rsvd 6) State.reset = none := by decide

theorem witness_InitLoadsInitialState :
    State.reset.busy = false ∧ (busyAt 5).busy = true ∧ (busyAt 5).err = false ∧
    ({ busyAt 5 with err := true } : State).busy = true ∧ ({ busyAt 5 with err := true } : State).err = true := by decide

theorem witness_StartBeginsBlock : full.busy = false ∧ full.wvalid = 0xFFFF#16 := by decide

theorem witness_StartRefusals :
    State.reset.busy = false ∧ State.reset.wvalid ≠ 0xFFFF#16 ∧ State.reset.err = false ∧
    (busyAt 5).busy = true ∧ (busyAt 5).err = false ∧
    ({ full with busy := true, err := true } : State).busy = true ∧
    ({ State.reset with err := true } : State).wvalid ≠ 0xFFFF#16 ∧ ({ State.reset with err := true } : State).err = true := by
  decide

theorem witness_ClrstatClearsStatus :
    exec .clrstat State.reset = .next { State.reset with err := false, errcode := 0, done := false, response := .written } :=
  rfl

theorem witness_WrCtrlPerformsCommand :
    decode (.ctrl 4#32) = .ok .clrstat ∧ (5#32 : Word).extractLsb' 4 28 = 0#28 ∧
    5 ≤ ((5#32 : Word).extractLsb' 0 4).toNat ∧ (0x10#32 : Word).extractLsb' 4 28 ≠ 0#28 ∧
    State.reset.err = false ∧ ({ State.reset with err := true } : State).err = true := by decide

theorem witness_CommandErrorsByPriority :
    (busyAt 5).err = false ∧ (busyAt 5).errcode = 0 ∧ ({ busyAt 5 with err := true } : State).err = true := by decide

theorem witness_IrqenWrite :
    exec (.wrIrqen 1#32) State.reset = .next { State.reset with doneIe := true, errIe := false, response := .written } :=
  rfl

theorem witness_HWrites : State.reset.busy = false ∧ (busyAt 5).busy = true := by decide

/-- Each cause of a bus error alone, and none. -/
theorem witness_BusErrorsExactlyFourCauses :
    wellFormedRecord 0x0800000000#40 = true ∧ AccessSize.two ≠ .four ∧
    wellFormedRecord 0xC200000000#40 = true ∧ (recordOff 0xC200000000#40).toNat % 4 ≠ 0 ∧
    wellFormedRecord 0x2400000000#40 = true ∧ (recordOff 0x2400000000#40).toNat = 0x24 ∧
    wellFormedRecord 0xBC00000000#40 = true ∧ (recordOff 0xBC00000000#40).toNat = 0x3C ∧
    recordDir 0x8000000000#40 = .write ∧ (recordOff 0x8000000000#40).toNat = 0x00 ∧
    recordDir 0x8800000000#40 = .write ∧ (recordOff 0x8800000000#40).toNat = 0x08 ∧
    (recordOff 0xA000000000#40).toNat = 0x20 ∧ (recordOff 0x4000000000#40).toNat = 0x40 := by decide

theorem witness_WriteThenReadReturnsIt :
    (withEvents State.reset [.host (wrReg (.m 3) 7), .host (rdReg (.m 3))]).pending =
      .host (wrReg (.m 3) 7) :: .host (rdReg (.m 3)) :: [] ∧
    (withEvents State.reset [.host (wrReg (.h 4) 7), .host (rdReg (.h 4))]).busy = false ∧
    (withEvents State.reset [.host (wrReg (.h 4) 7), .host (rdReg (.h 4))]).pending =
      .host (wrReg (.h 4) 7) :: .host (rdReg (.h 4)) :: [] ∧
    (withEvents State.reset [.host (wrReg .irqen 7), .host (rdReg .irqen)]).pending =
      .host (wrReg .irqen 7) :: .host (rdReg .irqen) :: [] := by decide

theorem witness_BooleanFunctionsBitwise : (0 < 32 ∧ 31 < 32) := by decide

theorem witness_RotationKeepsEveryBit : (0 < 1 ∧ 1 < 32) ∧ (0 < 31 ∧ 31 < 32) := by decide

theorem witness_ScheduleFollowsRecurrence : (16 ≤ 16 ∧ 16 < 80) ∧ (16 ≤ 79 ∧ 79 < 80) := by decide

/-- A window that holds the schedule words before round `t`, for every block and every round from 16 on. -/
theorem witness_ExpanderYieldsSchedule (m : Vector Word 16) (t : Nat) (ht : 16 ≤ t) :
    windowHolds m 0 m ∧ windowHolds m 15 m ∧
    windowHolds m t ((Vector.range 16).map fun j => schedule m (t - 16 + (j + 16 - t % 16) % 16)) := by
  refine ⟨⟨fun _ _ => rfl, by omega⟩, ⟨fun _ _ => rfl, by omega⟩, by omega, fun _ n hLo hHi j hj => ?_⟩
  have hSlot : t - 16 + (j.val + 16 - t % 16) % 16 = n := by omega
  simp [hSlot]

theorem witness_RoundWithoutExpansion :
    (busyAt 0).busy = true ∧ (busyAt 0).t.toNat < 80 ∧ (busyAt 79).busy = true ∧ (busyAt 79).t.toNat < 80 := by decide

theorem witness_RoundsWithExpansion : (busyAt 16).busy = true ∧ (busyAt 16).t.toNat < 80 := by decide

theorem witness_RoundStepFollowsRomWord :
    (busyAt 40).engineTurn (busyAt 40) ∧ (busyAt 40).busy = true ∧ (busyAt 40).t.toNat < 80 ∧
    (∀ t : Fin 80, (busyAt 40).rom[t] ∈ [0x00#8, 0x10#8, 0x15#8, 0x1A#8, 0x1D#8]) ∧
    State.reset.engineTurn State.reset ∧ State.reset.busy = false ∧
    (busyAt 80).engineTurn (busyAt 80) ∧ (busyAt 80).t = 80#7 :=
  ⟨.inl ⟨rfl, rfl⟩, by decide, by decide, by decide, .inl ⟨rfl, rfl⟩, rfl, .inl ⟨rfl, rfl⟩, rfl⟩

theorem witness_MicroOpsOnlyWhenEnabled :
    State.reset.busy = false ∧ (busyAt 80).t.toNat = 80 ∧ (busyAt 81).busy = true ∧ 80 < (busyAt 81).t.toNat ∧
    (busyAt 79).t.toNat < 80 := by decide

theorem witness_FinalizeAddsIntoH :
    (busyAt 80).busy = true ∧ (busyAt 80).t = 80#7 ∧ exec .fin (busyAt 80) = .next (finalize (busyAt 80)) :=
  ⟨rfl, rfl, rfl⟩

theorem witness_IrqFollowsEnabledCauses :
    State.reset.done = full.done ∧ State.reset.doneIe = full.doneIe ∧ State.reset.err = full.err ∧
    State.reset.errIe = full.errIe := by decide

theorem witness_StepKeepsInvariant :
    State.Inv (withEvents full [txn 0x8400000002#40]) ∧
    (nextOf (step (withEvents full [txn 0x8400000002#40]))).isSome = true := by decide

theorem witness_LegalStepGoesOn :
    State.Inv (withEvents full [txn 0x8400000002#40]) ∧
    ∀ e ∈ (withEvents full [txn 0x8400000002#40]).pending.head?, e.legal = true := by decide

/-- H changes by each of its four writers. -/
theorem witness_OnlyFourThingsWriteH :
    (nextOf (step (withEvents State.reset [txn 0x9000000000#40]))).map (·.h[0]) = some 0 ∧
    (nextOf (step (withEvents { State.reset with h := Vector.replicate 5 0 } [txn 0x8400000001#40]))).map (·.h) = some iv ∧
    (nextOf (step (withEvents { State.reset with h := Vector.replicate 5 0 } [.reset]))).map (·.h) = some iv ∧
    (nextOf (step { busyAt 80 with work := ⟨1, 0, 0, 0, 0⟩ })).map (·.h[0]) = some 0x67452302#32 := by decide

/-- M and WVALID change: a write, an accepted START, a reset. -/
theorem witness_MessageBufferWriters :
    (nextOf (step (withEvents State.reset [txn 0xC000000007#40]))).map (fun s => (s.m[0], s.wvalid)) = some (7, 1) ∧
    (nextOf (step (withEvents full [txn 0x8400000002#40]))).map (·.wvalid) = some 0 ∧
    (nextOf (step (withEvents { full with m := Vector.replicate 16 7 } [.reset]))).map (fun s => (s.m[0], s.wvalid)) =
      some (0, 0) := by decide

theorem witness_RoundCounterWriters :
    (nextOf (step (busyAt 16))).map (·.t) = some 17#7 ∧
    (nextOf (step (withEvents (busyAt 16) [txn 0x8400000003#40]))).map (·.t) = some 0#7 := by decide

/-- BUSY and DONE rise and fall. -/
theorem witness_BusyAndDoneWriters :
    (nextOf (step (withEvents { full with done := true } [txn 0x8400000002#40]))).map (fun s => (s.busy, s.done)) =
      some (true, false) ∧
    (nextOf (step (busyAt 80))).map (fun s => (s.busy, s.done)) = some (false, true) ∧
    (nextOf (step (withEvents { State.reset with done := true } [txn 0x8400000004#40]))).map (·.done) = some false := by
  decide

theorem witness_FirstErrorIsKept :
    ({ State.reset with err := true, errcode := 3 } : State).err = true ∧
    (nextOf (step (withEvents { State.reset with err := true, errcode := 3 } [txn 0x8400000012#40]))).map (·.errcode) =
      some 3#3 := by decide

/-- W, A..E and IRQEN change. -/
theorem witness_EngineStateWriters :
    (nextOf (step (withEvents { full with m := Vector.replicate 16 7 } [txn 0x8400000002#40]))).map
      (fun s => (s.w[0], s.work.a)) = some (7, 0x67452301#32) ∧
    (nextOf (step (busyAt 0))).map (·.work.a) = some 0x5A827999#32 ∧
    (nextOf (step (withEvents State.reset [txn 0x8C00000001#40]))).map (·.doneIe) = some true := by decide

/-- A turn, a read, a write to M, an ABORT, and a START that finds M unwritten. -/
abbrev idleEvents : List Event :=
  [.engine, txn 0x1000000000#40, txn 0xC000000007#40, txn 0x8400000003#40, txn 0x8400000002#40]

theorem witness_IdleKeepsDigest :
    (withEvents State.reset idleEvents).busy = false ∧
    (∀ e ∈ idleEvents, e ≠ .reset ∧ e.legal = true ∧ e.asks ≠ some (.wrCtrl 0x00000001#32)) ∧
    (∀ e ∈ idleEvents, ¬e.writesH) ∧
    idleEvents[4].asks = some (.wrCtrl 0x00000002#32) ∧
    (∀ k : Fin idleEvents.length, idleEvents[k].asks = some (.wrCtrl 0x00000002#32) →
      ∀ before, run k.val (withEvents State.reset idleEvents) = .next before → before.wvalid ≠ 0xFFFF#16) := by
  refine ⟨rfl, by decide, fun e he => ?_, by decide, fun k hk before hr => ?_⟩
  · have asks : ∀ e ∈ idleEvents, e.asks ∈ [none, some .rdH0, some (.wrM 0 7), some (.wrCtrl 3), some (.wrCtrl 2)] := by
      decide
    have h := asks e he
    rintro ⟨data, hw⟩
    simp only [List.mem_cons, List.not_mem_nil, or_false] at h
    rcases h with h | h | h | h | h <;> rw [h] at hw <;> simp at hw
  · have last : ∀ k : Fin idleEvents.length, idleEvents[k].asks = some (.wrCtrl 0x00000002#32) → k.val = 4 := by decide
    have valid : (nextOf (run 4 (withEvents State.reset idleEvents))).map (·.wvalid) = some 1#16 := by decide
    rw [last k hk] at hr
    rw [hr] at valid
    simp only [nextOf, Option.map_some, Option.some.injEq] at valid
    rw [valid]
    decide

/-- Eighty turns, with a write to M and a refused START among them. -/
theorem witness_StartThenEightyOneTurns :
    full.rom = romTable ∧ full.busy = false ∧ full.wvalid = 0xFFFF#16 ∧
    engineTurns (List.replicate 40 .engine ++ [txn 0xC000000007#40, txn 0x8400000002#40] ++ List.replicate 40 .engine) = 80 ∧
    (∀ e ∈ (List.replicate 40 .engine ++ [txn 0xC000000007#40, txn 0x8400000002#40] ++ List.replicate 40 .engine : List Event),
      e ≠ .reset ∧ e.legal = true ∧ e.asks ≠ some (.wrCtrl 0x00000003#32)) := by decide

theorem witness_RacesAdmitBothOrders :
    (busyAt 80).busy = true ∧ (busyAt 80).t = 80#7 ∧ ({ busyAt 80 with wvalid := 0xFFFF#16 } : State).wvalid = 0xFFFF#16 ∧
    (busyAt 80).err = false ∧
    ∀ e1 e2 : Event, (withEvents (busyAt 80) [e1, e2]).pending = e1 :: e2 :: [] :=
  ⟨rfl, rfl, rfl, rfl, fun _ _ => rfl⟩

theorem witness_PaddingFollowsRule : inputTooLarge [] = false ∧ inputTooLarge [0x61#8] = false := by decide

theorem witness_BlocksAndWords :
    inputTooLarge [] = false ∧ 0 < (([] : List Byte).length + 8) / 64 + 1 ∧ ((messageBlocks []).getLast?).isSome = true := by decide

/-- The interleavings of the driver's statement: a turn before each act with 81 polls, and one in which every second
act follows the act before it with no turn between. -/
theorem witness_DriverComputesDigest :
    State.Inv State.reset ∧ State.reset.err = false ∧
    (∀ n : Nat, 81 ≤ ((List.range 81).map fun k => (fun _ => 1 : Nat → Nat) (n + k)).sum) ∧
    (∀ n : Nat, 81 ≤ ((List.range 2).map fun k => (fun j => 81 * (j % 2) : Nat → Nat) (n + k)).sum) ∧
    State.Inv { busyAt 5 with err := true, errcode := 2 } ∧
    8 * ([] : List Byte).length < 2 ^ 64 ∧ 2 ^ 64 ≤ 8 * (List.replicate (2 ^ 61) (0 : Byte)).length := by
  refine ⟨by decide, rfl, fun n => by simp, fun n => ?_, by decide, by decide, by rw [List.length_replicate]; decide⟩
  simp [List.range_succ]
  omega

/-- A fair interleaving in which the engine's turns come ever more seldom. -/
theorem witness_DriverEndsUnderFairness :
    State.Inv State.reset ∧ State.reset.err = false ∧
    (∀ n : Nat, ∃ k, n ≤ k ∧ 1 ≤ (fun j => if j = 2 ^ j.log2 then 1 else 0 : Nat → Nat) k) ∧
    8 * ([] : List Byte).length < 2 ^ 64 :=
  ⟨by decide, rfl, fun n => ⟨2 ^ n, Nat.lt_two_pow_self.le, by simp⟩, by decide⟩

end Sys2Proof.Tests
end

/-! PROOFS. The interrupt line (R29). -/

section
namespace Sys2Proof.Machine

/-- `irq` is the disjunction of the two enabled causes (R29). -/
theorem irq_eq_true_iff (s : State) :
    irq s = true ↔ (s.done = true ∧ s.doneIe = true) ∨ (s.err = true ∧ s.errIe = true) := by
  simp only [irq, Bool.or_eq_true, Bool.and_eq_true]

/-- Equal flags and equal enables give the same `irq`: both lines are high under one condition on the four bits. -/
theorem irq_congr {s s' : State} (hdone : s.done = s'.done) (hdoneIe : s.doneIe = s'.doneIe)
    (herr : s.err = s'.err) (herrIe : s.errIe = s'.errIe) : irq s = irq s' := by
  rw [Bool.eq_iff_iff, irq_eq_true_iff, irq_eq_true_iff, hdone, hdoneIe, herr, herrIe]

end Sys2Proof.Machine

namespace Sys2Proof
open Machine

/-- Settles O43: the condition on the four bits, and the agreement of `irq` that follows from it. -/
theorem irqFollowsEnabledCauses : Obligations.IrqFollowsEnabledCauses :=
  ⟨irq_eq_true_iff, fun _ _ => irq_congr⟩

end Sys2Proof
end

/-! PROOFS. The host's reads (R66). -/

section
namespace Sys2Proof.Machine

/-- A read of a reserved register ends with a bus error at its offset (R127). -/
theorem exec_read_rsvd (k : Fin 7) (s : State) :
    exec (accessInstr .read (.rsvd k) 0) s = .next (busError (regOffset (.rsvd k)) s) := by
  revert k
  simp [accessInstr, readInstr, rsvdInstr, regOffset, Fin.forall_fin_succ]

/-- A transaction of a wrong size or at a misaligned offset ends with a bus error (R248). -/
theorem step_host_busError {s : State} {t : Txn} {rest : List Event} (hp : s.pending = .host t :: rest)
    (hd : decodeTxn t.record t.size = .reject .sizeNotFour ∨ decodeTxn t.record t.size = .reject .misaligned) :
    step s = .next (busError (recordOff t.record) { s with pending := rest }) := by
  rcases hd with hd | hd <;> simp [step, fetch, fetchTxn, hp, hd]

/-- The bus's answer to a read of a register: its value, or a bus error where it has none. -/
def registerAnswer (reg : WindowReg) (s : State) : Response :=
  match memRead reg s with
  | some v => .value v
  | none => .busError (regOffset reg)

/-- The read of a register only answers (R66). -/
theorem exec_read_registerAnswer (reg : WindowReg) (s : State) :
    exec (accessInstr .read reg 0) s = .next { s with response := registerAnswer reg s } := by
  cases hv : memRead reg s with
  | some v =>
    rw [exec_read hv, registerAnswer, hv]
    rfl
  | none =>
    cases reg with
    | rsvd k => exact exec_read_rsvd k s
    | _ => cases hv

/-- The answer to a read does not depend on the answer before it, nor on the events still to come. -/
theorem registerAnswer_frame (reg : WindowReg) (s : State) (events : List Event) (answer : Response) :
    registerAnswer reg { s with pending := events, response := answer } = registerAnswer reg s := by
  cases reg <;> rfl

/-- The bus's answer to a read of whatever size and offset. -/
def readAnswer (t : Txn) (s : State) : Response :=
  if t.size = .four ∧ (recordOff t.record).extractLsb' 0 2 = 0#2 then
    registerAnswer (windowReg (recordOff t.record)) s
  else .busError (recordOff t.record)

/-- The same for a read of whatever size and offset. -/
theorem readAnswer_frame (t : Txn) (s : State) (events : List Event) (answer : Response) :
    readAnswer t { s with pending := events, response := answer } = readAnswer t s := by
  simp only [readAnswer, registerAnswer_frame]

/-- The step of a well-formed read takes its event off and answers it, and changes nothing else (R66). -/
theorem step_read {s : State} {t : Txn} {rest : List Event} (hdir : recordDir t.record = .read)
    (hdata : recordData t.record = 0) (hp : s.pending = .host t :: rest) :
    step s = .next { s with pending := rest, response := readAnswer t s } := by
  rcases decodeTxn_cases t.record t.size with ⟨hw, _⟩ | ⟨_, hsize, hd⟩ | ⟨_, _, halign, hd⟩ | ⟨_, hsize, halign, hd⟩
  · simp [wellFormedRecord, hdir, hdata, dataFits] at hw
  · simp [step_host_busError hp (.inl hd), busError, readAnswer, hsize]
  · simp [step_host_busError hp (.inr hd), busError, readAnswer, halign]
  · rw [hdir, hdata] at hd
    have frame := registerAnswer_frame (windowReg (recordOff t.record)) s rest s.response
    rw [step_host hp hd, exec_read_registerAnswer, frame, readAnswer, if_pos ⟨hsize, halign⟩]

end Sys2Proof.Machine

namespace Sys2Proof
open Machine

/-- Settles O17: each of the two steps only takes its event off and answers, and the answer depends on neither. -/
theorem readsChangeNoRegister : Obligations.ReadsChangeNoRegister := by
  intro s t rest hdir hdata hp
  have first := step_read hdir hdata hp
  have second := step_read (s := { s with pending := .host t :: rest, response := readAnswer t s }) hdir hdata rfl
  rw [readAnswer_frame] at second
  exact ⟨readAnswer t s, run_one first, (run_step first).trans (run_one second)⟩

end Sys2Proof
end

/-! PROOFS. The instruction of a record by its offset (R83, R95). -/

section
namespace Sys2Proof

/-- `OFF[1:0]` is the offset modulo 4 (R83). -/
theorem off_aligned_iff (off : BitVec 7) : off.extractLsb' 0 2 = 0#2 ↔ off.toNat % 4 = 0 := by
  simp [← BitVec.toNat_inj]

/-- A well-formed record at a misaligned offset is rejected as misaligned (R83). -/
theorem decode_txn_misaligned {r : BitVec 40} (hw : wellFormedRecord r = true) (hoff : (recordOff r).toNat % 4 ≠ 0) :
    decode (.txn r) = .reject .misaligned := by
  have misaligned := mt (off_aligned_iff (recordOff r)).mp hoff
  simp [decode, decodeTxn, hw, misaligned]

/-- A well-formed record at the offset of a register is an access to that register (R95). -/
theorem decode_txn_regOffset {r : BitVec 40} (hw : wellFormedRecord r = true) (reg : WindowReg)
    (hoff : (recordOff r).toNat = (regOffset reg).toNat) :
    decode (.txn r) = .ok (accessInstr (recordDir r) reg (recordData r)) := by
  have off_eq : recordOff r = regOffset reg := BitVec.eq_of_toNat_eq hoff
  have decoded := decodeTxn_mkRecord (recordDir r) (regOffset reg) (recordData r) hw (regOffset_aligned reg)
  rwa [← off_eq, mkRecord_fields, off_eq, windowReg_regOffset] at decoded

/-- An access to a reserved register is its row's instruction in both directions (R127). -/
theorem accessInstr_rsvd (dir : Dir) (k : Fin 7) (data : Word) :
    accessInstr dir (.rsvd k) data = rsvdInstr k dir data := by
  cases dir <;> rfl

/-- A well-formed record at a reserved offset, in either direction (R127). -/
theorem decode_txn_rsvd {r : BitVec 40} (hw : wellFormedRecord r = true) (k : Fin 7)
    (hoff : (recordOff r).toNat = (regOffset (.rsvd k)).toNat) :
    decode (.txn r) = .ok (rsvdInstr k (recordDir r) (recordData r)) := by
  rw [decode_txn_regOffset hw (.rsvd k) hoff, accessInstr_rsvd]

/-- The offset of M[j] as a number (R30). -/
theorem regOffset_m_toNat (j : Fin 16) : (regOffset (.m j)).toNat = 0x40 + 4 * j.val := by
  revert j
  decide

/-- Settles O5: an aligned offset is that of a register of the window, and the row is that register's in the record's
direction. -/
theorem recordsDecodeByOffset : Obligations.RecordsDecodeByOffset := by
  intro r hw off data
  have rsvd := decode_txn_rsvd hw
  refine ⟨decode_txn_misaligned hw, rsvd 0, rsvd 1, rsvd 2, rsvd 3, rsvd 4, rsvd 5, rsvd 6, fun hdir => ?_, fun hdir => ?_⟩
  · have read := decode_txn_regOffset hw
    rw [hdir] at read
    exact ⟨read .id, read .ctrl, read .status, read .irqen, read (.h 0), read (.h 1), read (.h 2), read (.h 3),
      read (.h 4), fun j hoff => read (.m j) (hoff.trans (regOffset_m_toNat j).symm)⟩
  · have write := decode_txn_regOffset hw
    rw [hdir] at write
    exact ⟨write .id, write .ctrl, write .status, write .irqen, write (.h 0), write (.h 1), write (.h 2), write (.h 3),
      write (.h 4), fun j hoff => write (.m j) (hoff.trans (regOffset_m_toNat j).symm)⟩

end Sys2Proof
end

/-! PROOFS. The decoding of the host's writes and of the command words (R84 to R86, R95). -/

section
namespace Sys2Proof
open Machine

/-- A record whose high byte is RW = 1 and the offset of a register writes that register (R95). -/
theorem decode_txn_write (reg : WindowReg) {high : BitVec 8} (data : Word)
    (hhigh : dirBit .write ++ regOffset reg = high) :
    decode (.txn (high ++ data)) = .ok (writeInstr reg data) := by
  subst hhigh
  exact decodeTxn_wrReg reg data

/-- The high byte of a write of M[j], whose offset is 0x40 + 4 * j (R30, R81). -/
theorem dirBit_write_append_regOffset_m (j : Fin 16) :
    dirBit .write ++ regOffset (.m j) = BitVec.ofNat 8 (0xC0 + 4 * j.val) := by
  revert j
  decide

/-- An illegal command word names no command (R86). -/
theorem decode_ctrl_illegal {data : Word}
    (hIll : data.extractLsb' 4 28 ≠ 0#28 ∨ 5 ≤ (data.extractLsb' 0 4).toNat) :
    decode (.ctrl data) = .reject .illegalCommand := by
  have legal : ∀ w ∈ [0x0#32, 0x1#32, 0x2#32, 0x3#32, 0x4#32],
      ¬(w.extractLsb' 4 28 ≠ 0#28 ∨ 5 ≤ (w.extractLsb' 0 4).toNat) := by simp
  have notLegal := mt (legal data) (not_not_intro hIll)
  simp only [List.mem_cons, List.not_mem_nil, or_false, not_or] at notLegal
  simp [decode, decodeCommand, notLegal]

end Sys2Proof
end

/-! PROOFS. The host's writes as next states: commands, refusals (R241), H (R124), M (R125) and the flags they leave. -/

section
namespace Sys2Proof.Machine

/-- A legal command word performs its command (R117). -/
theorem exec_wrCtrl_of_decode {data : Word} {i : Instr} (s : State) (hd : decode (.ctrl data) = .ok i) :
    exec (.wrCtrl data) s = exec i s := by
  rcases commandWord_cases data with (rfl | rfl | rfl | rfl | rfl) | hIll
  · cases hd; exact exec_wrCtrl_nop s
  · cases hd; exact exec_wrCtrl_init s
  · cases hd; exact exec_wrCtrl_start s
  · cases hd; exact exec_wrCtrl_abort s
  · cases hd; exact exec_wrCtrl_clrstat s
  · rw [decode_ctrl_illegal hIll] at hd
    cases hd

/-- Every write of CTRL completes, whatever its word does (R117). -/
theorem exec_wrCtrl_completes (data : Word) (s : State) :
    ∃ s', exec (.wrCtrl data) s = .next s' ∧ s'.response = .written := by
  rcases exec_wrCtrl_cases data s with ⟨_, e⟩ | ⟨_, e⟩ | ⟨_, e⟩ | ⟨_, e⟩ | ⟨_, e⟩ | ⟨_, e⟩
  · exact ⟨_, e, rfl⟩
  · rcases exec_init_cases s with ⟨_, e'⟩ | ⟨_, e'⟩ <;> exact ⟨_, e.trans e', rfl⟩
  · rcases exec_start_cases s with ⟨_, e'⟩ | ⟨_, _, e'⟩ | ⟨_, _, e'⟩ <;> exact ⟨_, e.trans e', rfl⟩
  · exact ⟨_, e, rfl⟩
  · exact ⟨_, e, rfl⟩
  · exact ⟨_, e, rfl⟩

/-- A refused write completes: ERR is set, and ERRCODE is the code of the first error (R241). -/
theorem acknowledge_recordError (e : CommandError) (s : State) :
    acknowledge (recordError e s) = { s with
      err := true, errcode := if s.err then s.errcode else e.code, response := .written } := by
  cases s with
  | mk _ _ _ _ _ _ _ _ _ err => cases err <;> rfl

/-- The first error since ERR was 0 is recorded (R241). -/
theorem acknowledge_recordError_first (e : CommandError) {s : State} (he : s.err = false) :
    acknowledge (recordError e s) = { s with err := true, errcode := e.code, response := .written } := by
  simp [acknowledge_recordError, he]

/-- A later error changes nothing (R241). -/
theorem acknowledge_recordError_later (e : CommandError) {s : State} (he : s.err = true) :
    acknowledge (recordError e s) = { s with response := .written } := by
  simp [recordError, acknowledge, he]

/-- Each of the five writes of an accumulator is a write of some H[k] (R124). -/
theorem exec_wrH_of_mem {data : Word} {i : Instr}
    (hi : i ∈ [Instr.wrH0 data, .wrH1 data, .wrH2 data, .wrH3 data, .wrH4 data]) (s : State) :
    ∃ k : Fin 5, exec i s = .next (acknowledge (writeH k data s)) := by
  simp only [List.mem_cons, List.not_mem_nil, or_false] at hi
  rcases hi with rfl | rfl | rfl | rfl | rfl
  · exact ⟨0, rfl⟩
  · exact ⟨1, rfl⟩
  · exact ⟨2, rfl⟩
  · exact ⟨3, rfl⟩
  · exact ⟨4, rfl⟩

/-- An accepted write of H[k] stores DATA there and completes (R124). -/
theorem acknowledge_writeH_idle (k : Fin 5) (data : Word) {s : State} (hb : s.busy = false) :
    acknowledge (writeH k data s) = { s with h := s.h.set k data, response := .written } := by
  rw [writeH_of_idle k data s hb]
  rfl

/-- The accumulators are their five words. -/
theorem accumulators_eq_words (h : Vector Word 5) : h = #v[h[0], h[1], h[2], h[3], h[4]] := by
  ext k hk
  interval_cases k <;> rfl

/-- Bit `k` of WVALID after a write of M[j]: set for `k = j`, kept for the others (R125). -/
theorem getLsbD_writeM_wvalid (j k : Fin 16) (data : Word) (s : State) :
    (writeM j data s).wvalid.getLsbD k.val = (decide (k = j) || s.wvalid.getLsbD k.val) := by
  rw [writeM_wvalid, BitVec.getLsbD_or, BitVec.getLsbD_twoPow, Bool.or_comm]
  simp [Fin.ext_iff, eq_comm]

/-- The IRQEN value is its two enables in bits 1 and 0 (R92). -/
theorem irqenWord_eq_bits (s : State) :
    irqenWord s = ((if s.errIe then 1#32 else 0#32) <<< 1) ||| (if s.doneIe then 1#32 else 0#32) := by
  unfold irqenWord
  cases s.errIe <;> cases s.doneIe <;> rfl

/-- With ERR and DONE clear no enable raises `irq` (R29). -/
theorem irq_eq_false_of_clear {s : State} (hdone : s.done = false) (herr : s.err = false) : irq s = false := by
  simp [irq, hdone, herr]

end Sys2Proof.Machine
end

/-! PROOFS. What the commands and the host's accesses do (R111 to R126). -/

section
namespace Sys2Proof
open Machine

/-- Settles O25: the legal words by their decoding, the illegal ones by `record_error` from both values of ERR. -/
theorem wrCtrlPerformsCommand : Obligations.WrCtrlPerformsCommand := by
  intro data s
  refine ⟨decode_txn_write .ctrl data rfl, fun i => exec_wrCtrl_of_decode s, fun hIll => ?_,
    exec_wrCtrl_completes data s⟩
  rw [exec_wrCtrl_illegal data s hIll]
  exact ⟨decode_ctrl_illegal hIll, fun he => congrArg _ (acknowledge_recordError_first .badCmd he),
    fun he => congrArg _ (acknowledge_recordError_later .badCmd he)⟩

/-- Settles O29: M changes in one word, WVALID in one bit. -/
theorem mWrites : Obligations.MWrites := by
  intro j data s
  refine ⟨decode_txn_write (.m j) data (dirBit_write_append_regOffset_m j), acknowledge (writeM j data s), rfl, ?_,
    fun k hkj => ?_, fun k => ?_, rfl⟩
  · exact Vector.getElem_set_self j.isLt
  · exact Vector.getElem_set_ne j.isLt k.isLt (fun hjk => hkj (Fin.ext hjk.symm))
  · exact getLsbD_writeM_wvalid j k data s

/-- Settles O13: both values are constants. -/
theorem constantReads : Obligations.ConstantReads :=
  ⟨by decide, by decide, fun s => ⟨exec_rdId s, exec_rdCtrl s⟩⟩

/-- Settles O15: the value by its two bits, both 1 after the write of all ones. -/
theorem irqenRead : Obligations.IrqenRead := by
  refine ⟨by decide, fun s => ?_, fun s s' hw => ?_⟩
  · rw [exec_rdIrqen, irqenWord_eq_bits]
    rfl
  · cases hw
    have both : irqenWord (acknowledge (writeIrqen 0xFFFFFFFF#32 s)) = 3#32 := by simp [irqenWord_eq_bits]
    rw [exec_rdIrqen, both]
    rfl

/-- Settles O19: the command and the write that carries it only complete the write. -/
theorem nopChangesNothing : Obligations.NopChangesNothing :=
  ⟨by decide, by decide, fun s => ⟨exec_nop s, (exec_wrCtrl_nop s).trans (exec_nop s)⟩⟩

/-- Settles O20: the accepted case by its effect, the refused ones by `record_error`. -/
theorem initLoadsInitialState : Obligations.InitLoadsInitialState := by
  refine ⟨by decide, by decide, fun s => ⟨exec_wrCtrl_init s, fun hb => ?_, fun hb he => ?_, fun hb he => ?_⟩⟩
  · exact exec_init_idle s hb
  · rw [exec_init_busy s hb, acknowledge_recordError_first .busy he]
    rfl
  · rw [exec_init_busy s hb, acknowledge_recordError_later .busy he]

/-- Settles O24: the cleared flags leave `irq` without a cause. -/
theorem clrstatClearsStatus : Obligations.ClrstatClearsStatus := by
  refine ⟨by decide, by decide, fun s => ⟨exec_wrCtrl_clrstat s, exec_clrstat s, fun s' hs' => ?_⟩⟩
  cases hs'
  exact irq_eq_false_of_clear rfl rfl

/-- Settles O27: the enables are the two bits of DATA, and `irq` is computed from them. -/
theorem irqenWrite : Obligations.IrqenWrite := by
  refine ⟨fun data => decode_txn_write .irqen data rfl, fun data s => ⟨exec_wrIrqen data s, fun s' hs' => ?_⟩⟩
  cases hs'
  rfl

/-- Settles O28: idle, the write stores into one of the five words; busy, it is refused. -/
theorem hWrites : Obligations.HWrites := by
  refine ⟨fun data => ⟨decode_txn_write (.h 0) data rfl, decode_txn_write (.h 1) data rfl,
    decode_txn_write (.h 2) data rfl, decode_txn_write (.h 3) data rfl, decode_txn_write (.h 4) data rfl⟩,
    fun data s => ⟨fun hb => ?_, fun hb i hi => ?_⟩⟩
  · have stored (k : Fin 5) := acknowledge_writeH_idle k data hb
    have words (k : Fin 5) := accumulators_eq_words (s.h.set k data)
    simp only [exec_wrH0, exec_wrH1, exec_wrH2, exec_wrH3, exec_wrH4, stored]
    refine ⟨?_, ?_, ?_, ?_, ?_⟩ <;> rw [words] <;> simp
  · obtain ⟨k, written⟩ := exec_wrH_of_mem hi s
    rw [written, writeH_of_busy k data s hb, acknowledge_recordError]
    rfl

/-- Settles O30: both are bus errors at their offset, whatever DATA is. -/
theorem readOnlyWrites : Obligations.ReadOnlyWrites :=
  ⟨fun data => ⟨decode_txn_write .id data rfl, decode_txn_write .status data rfl⟩,
    fun data s => ⟨exec_wrRoId data s, exec_wrRoStatus data s⟩⟩

end Sys2Proof
end

/-! PROOFS. The contents of the control ROM (R176) and the function unit bit by bit (R171 to R173). -/

section
namespace Sys2Proof.Machine

/-- The group of twenty rounds that round `t` lies in, `t div 20` (R176). -/
def roundGroup (t : Fin 80) : Fin 4 := ⟨t.val / 20, Nat.div_lt_of_lt_mul t.isLt⟩

/-- FSEL in each group of rounds (R176). -/
def groupFsel (g : Fin 4) : BitVec 2 := [0#2, 1#2, 2#2, 1#2].getD g.val 3#2

/-- A control word assembled from its fields (R87): the reserved bits, EXP, KSEL = the group, and the group's FSEL. -/
def controlWord (expand : Bool) (g : Fin 4) : BitVec 8 :=
  0#3 ++ BitVec.ofBool expand ++ BitVec.ofFin (w := 2) g ++ groupFsel g

/-- The ROM's runs of words (R176) are the control words of the rounds' groups, with EXP from round 16 on. -/
theorem reset_rom_eq_controlWord (t : Fin 80) :
    State.reset.rom[t] = controlWord (decide (16 ≤ t.val)) (roundGroup t) := by
  decide +revert

@[simp] theorem controlWord_fsel (x : Bool) (g : Fin 4) : (controlWord x g).extractLsb' 0 2 = groupFsel g := by
  decide +revert

@[simp] theorem controlWord_ksel (x : Bool) (g : Fin 4) : (controlWord x g).extractLsb' 2 2 = BitVec.ofFin g := by
  decide +revert

@[simp] theorem controlWord_exp (x : Bool) (g : Fin 4) : (controlWord x g).getLsbD 4 = x := by
  decide +revert

@[simp] theorem controlWord_reserved (x : Bool) (g : Fin 4) : (controlWord x g).extractLsb' 5 3 = 0#3 := by
  decide +revert

/-- The function a control word selects is that of its group (R89). -/
theorem romFsel_controlWord (x : Bool) (g : Fin 4) :
    romFsel (controlWord x g) = [BoolFn.sel, .xor, .maj, .xor][g.val]? := by
  decide +revert

/-- The constant of each group (R175). -/
theorem ktab_ofFin (g : Fin 4) :
    [0x5A827999#32, 0x6ED9EBA1#32, 0x8F1BBCDC#32, 0xCA62C1D6#32][g.val]? = some (ktab (BitVec.ofFin g)) := by
  decide +revert

/-- Each bit of `b` selects the bit of `c` or of `d` (R171). -/
theorem getLsbD_fSel (b c d : Word) {k : Nat} (hk : k < 32) :
    (fSel b c d).getLsbD k = if b.getLsbD k then c.getLsbD k else d.getLsbD k := by
  simp only [fSel, BitVec.getLsbD_or, BitVec.getLsbD_and, BitVec.getLsbD_not, hk]
  cases b.getLsbD k <;> simp

/-- Each bit is the exclusive or of the three bits (R172). -/
theorem getLsbD_fXor (b c d : Word) (k : Nat) :
    (fXor b c d).getLsbD k = (b.getLsbD k ^^ (c.getLsbD k ^^ d.getLsbD k)) := by
  simp only [fXor, BitVec.getLsbD_xor, Bool.xor_assoc]

/-- The disjunction of the three pairs is 1 where at least two of three bits are. -/
theorem or_and_pairs_eq_majority (x y z : Bool) :
    ((x && y || x && z) || y && z) = decide (2 ≤ x.toNat + y.toNat + z.toNat) := by
  decide +revert

/-- Each bit is the majority of the three bits (R173). -/
theorem getLsbD_fMaj (b c d : Word) (k : Nat) :
    (fMaj b c d).getLsbD k =
      decide (2 ≤ (b.getLsbD k).toNat + (c.getLsbD k).toNat + (d.getLsbD k).toNat) := by
  simp only [fMaj, BitVec.getLsbD_or, BitVec.getLsbD_and, or_and_pairs_eq_majority]

end Sys2Proof.Machine

namespace Sys2Proof
open Machine

/-- Settles O12: every word of the ROM is the control word of its round's group, whose fields are read off. -/
theorem romContents : Obligations.RomContents := by
  intro t
  rw [reset_rom_eq_controlWord, controlWord_fsel, controlWord_ksel, controlWord_exp, controlWord_reserved]
  exact ⟨rfl, rfl, rfl, rfl, romFsel_controlWord _ (roundGroup t), ktab_ofFin (roundGroup t)⟩

/-- Settles O34: the formulas are the definitions, the bits follow from them. -/
theorem booleanFunctionsBitwise : Obligations.BooleanFunctionsBitwise :=
  fun b c d => ⟨rfl, rfl, rfl, fun k hk => ⟨getLsbD_fSel b c d hk, getLsbD_fXor b c d k, getLsbD_fMaj b c d k⟩⟩

end Sys2Proof
end

/-! PROOFS. The host procedure: the padded stream (R221, R222), its blocks and words (R224, R227), and the digest string
(R225). -/

section
namespace Sys2Proof.Machine

/-! ### The padded stream, bit by bit -/

@[simp] theorem bitsOf_append (p q : List Byte) : bitsOf (p ++ q) = bitsOf p ++ bitsOf q :=
  List.flatMap_append

@[simp] theorem length_bitsOf (p : List Byte) : (bitsOf p).length = 8 * p.length := by
  simp [bitsOf, List.length_flatMap, Nat.mul_comm]

/-- The terminator byte is the 1 bit and the first seven 0 bits (R222). -/
theorem bitsOf_terminator : bitsOf [0x80#8] = [true] ++ List.replicate 7 false := by decide

theorem bitsOf_zeros (n : Nat) : bitsOf (List.replicate n 0x00#8) = List.replicate (8 * n) false := by
  induction n with
  | zero => rfl
  | succ n ih =>
    rw [List.replicate_succ', bitsOf_append, ih, Nat.mul_succ, List.replicate_add]
    rfl

/-- The byte of `n` at bit `s` holds the bits `s + 7` down to `s` of `n`. -/
theorem bits_ofNat_shiftRight (n s : Nat) :
    ([7, 6, 5, 4, 3, 2, 1, 0].map fun i => (BitVec.ofNat 8 (n >>> s)).getLsbD i) =
      [7, 6, 5, 4, 3, 2, 1, 0].map fun i => n.testBit (s + i) := by
  simp only [BitVec.getLsbD_ofNat, Nat.testBit_shiftRight]
  rfl

/-- The length field holds the bits 63 down to 0 of the length (R221). -/
theorem bitsOf_be64 (n : Nat) : bitsOf (be64 n) = (List.range 64).map fun i => n.testBit (63 - i) := by
  simp only [bitsOf, be64, List.flatMap_map, bits_ofNat_shiftRight]
  rfl

/-- Between the message and the length field stand one 1 bit and `7 + 8 * zeroBytes` 0 bits (R221, R222). -/
theorem bitsOf_padMessage (msg : List Byte) :
    bitsOf (padMessage msg) = bitsOf msg ++ [true] ++ List.replicate (7 + 8 * zeroBytes msg.length) false
      ++ (List.range 64).map (fun i => (8 * msg.length).testBit (63 - i)) := by
  simp only [padMessage, bitsOf_append, bitsOf_terminator, bitsOf_zeros, bitsOf_be64, List.replicate_add,
    List.append_assoc]

/-- `7 + 8 * zeroBytes` is the least number of 0 bits that brings the bit length to 448 mod 512 (R221). -/
theorem zeroBytes_least (len : Nat) :
    (8 * len + 1 + (7 + 8 * zeroBytes len)) % 512 = 448 ∧
      ∀ k, (8 * len + 1 + k) % 512 = 448 → 7 + 8 * zeroBytes len ≤ k := by
  unfold zeroBytes
  exact ⟨by omega, fun k hk => by omega⟩

/-! ### Blocks and words -/

@[simp] theorem length_be64 (n : Nat) : (be64 n).length = 8 := rfl

/-- The message, the terminator and the zero bytes leave room for the length field in the last block (R227). -/
theorem length_before_lengthField (len : Nat) : len + 1 + zeroBytes len = 64 * ((len + 8) / 64) + 56 := by
  unfold zeroBytes
  omega

theorem length_padMessage (msg : List Byte) : (padMessage msg).length = 64 * blockCount msg.length := by
  simp only [padMessage, List.length_append, List.length_singleton, List.length_replicate, length_be64,
    length_before_lengthField, blockCount]
  omega

@[simp] theorem length_messageBlocks (msg : List Byte) : (messageBlocks msg).length = blockCount msg.length := by
  simp [messageBlocks]

theorem messageBlocks_getElem? (msg : List Byte) {k : Nat} (hk : k < blockCount msg.length) :
    (messageBlocks msg)[k]? = some (blockWords (padMessage msg) k) := by
  simp [messageBlocks, hk]

theorem messageBlocks_getLast? (msg : List Byte) :
    (messageBlocks msg).getLast? = some (blockWords (padMessage msg) ((msg.length + 8) / 64)) := by
  rw [List.getLast?_eq_getElem?, length_messageBlocks]
  exact messageBlocks_getElem? msg (Nat.lt_succ_self _)

theorem blockWords_getElem (p : List Byte) (k : Nat) (j : Fin 16) :
    (blockWords p k)[j] = wordAt p (64 * k + 4 * j.val) := by
  fin_cases j <;> rfl

/-- Four bytes side by side are the word with the first of them in bits 31:24 (R224): each bit lies in one byte. -/
theorem bytes_append_eq_or (a b c d : Byte) :
    (a ++ b ++ c ++ d : Word) =
      a.setWidth 32 <<< 24 ||| b.setWidth 32 <<< 16 ||| c.setWidth 32 <<< 8 ||| d.setWidth 32 := by
  apply BitVec.eq_of_getLsbD_eq
  intro i hi
  simp only [BitVec.getLsbD_append, BitVec.getLsbD_or, BitVec.getLsbD_shiftLeft, BitVec.getLsbD_setWidth, Nat.sub_sub]
  obtain h | h | h | h : i < 8 ∨ 8 ≤ i ∧ i < 16 ∨ 16 ≤ i ∧ i < 24 ∨ 24 ≤ i := by omega
  all_goals simp (disch := omega) [if_pos, if_neg, decide_eq_true, decide_eq_false]

/-- A word past the end of `p` is a word of what follows `p`. -/
theorem wordAt_append_right (p q : List Byte) (i : Nat) : wordAt (p ++ q) (p.length + i) = wordAt q i := by
  simp [wordAt, Nat.add_assoc, List.getElem?_append_right]

/-- The four bytes of `n` from bit `s` up are its word there. -/
theorem bytes_ofNat_shiftRight (n s : Nat) :
    (BitVec.ofNat 8 (n >>> (s + 24)) ++ BitVec.ofNat 8 (n >>> (s + 16)) ++ BitVec.ofNat 8 (n >>> (s + 8))
      ++ BitVec.ofNat 8 (n >>> s) : Word) = BitVec.ofNat 32 (n >>> s) := by
  apply BitVec.eq_of_toNat_eq
  have hbyte (x : Nat) : x % 2 ^ 8 < 2 ^ 8 := Nat.mod_lt x (by decide)
  simp only [BitVec.toNat_append, BitVec.toNat_ofNat, Nat.shiftRight_add, ← Nat.shiftLeft_add_eq_or_of_lt (hbyte _)]
  omega

/-- The last two words of the last block are the length field, high word first (R221, R227). -/
theorem padMessage_lengthWords (msg : List Byte) :
    wordAt (padMessage msg) (64 * ((msg.length + 8) / 64) + 56) = BitVec.ofNat 32 (8 * msg.length / 2 ^ 32) ∧
      wordAt (padMessage msg) (64 * ((msg.length + 8) / 64) + 60) = BitVec.ofNat 32 (8 * msg.length) := by
  have hlen : (msg ++ [0x80#8] ++ List.replicate (zeroBytes msg.length) 0x00#8).length =
      64 * ((msg.length + 8) / 64) + 56 := by
    simp only [List.length_append, List.length_singleton, List.length_replicate, length_before_lengthField]
  have hfield (i : Nat) : wordAt (padMessage msg) (64 * ((msg.length + 8) / 64) + 56 + i) =
      wordAt (be64 (8 * msg.length)) i := hlen ▸ wordAt_append_right _ _ i
  rw [← Nat.shiftRight_eq_div_pow]
  exact ⟨(hfield 0).trans (bytes_ofNat_shiftRight _ 32), (hfield 4).trans (bytes_ofNat_shiftRight _ 0)⟩

/-! ### The digest string -/

theorem hexDigit_mem (n : BitVec 4) :
    hexDigit n ∈ ['0', '1', '2', '3', '4', '5', '6', '7', '8', '9', 'a', 'b', 'c', 'd', 'e', 'f'] := by
  revert n
  decide

/-- A digit reads back as the value it was written for. -/
theorem hexValue_hexDigit (n : BitVec 4) : hexValue (hexDigit n) = some n.toNat := by
  revert n
  decide

theorem hexNumber_hexDigit (acc : Nat) (n : BitVec 4) (ds : List Char) :
    hexNumber acc (hexDigit n :: ds) = hexNumber (16 * acc + n.toNat) ds := by
  rw [hexNumber, hexValue_hexDigit]

/-- Reading the `k` lowest digits of `w`, most significant first, appends them to what was read before. -/
theorem hexNumber_lowDigits (w : Word) (acc k : Nat) :
    hexNumber acc ((List.range k).reverse.map fun i => hexDigit (w.extractLsb' (4 * i) 4)) =
      some (16 ^ k * acc + w.toNat % 16 ^ k) := by
  induction k generalizing acc with
  | zero => simp [hexNumber, Nat.mod_one]
  | succ k ih =>
    have htop : w.toNat % 16 ^ (k + 1) = 16 ^ k * (w.extractLsb' (4 * k) 4).toNat + w.toNat % 16 ^ k := by
      rw [Nat.mod_pow_succ, BitVec.extractLsb'_toNat, Nat.shiftRight_eq_div_pow, Nat.pow_mul, Nat.add_comm]
    rw [List.range_succ, List.reverse_concat, List.map_cons, hexNumber_hexDigit, ih, htop]
    congr 1
    ring

theorem hexNumber_hexWord (w : Word) : hexNumber 0 (hexWord w) = some w.toNat := by
  have hread := hexNumber_lowDigits w 0 8
  rwa [Nat.mul_zero, Nat.zero_add, Nat.mod_eq_of_lt (show w.toNat < 16 ^ 8 from w.isLt)] at hread

theorem renderDigest_eq_flatMap (h : Vector Word 5) :
    renderDigest h = (List.finRange 5).flatMap fun i => hexWord h[i] := rfl

/-- The `i`-th group of eight digits is the representation of word `i` (R225, R206). -/
theorem renderDigest_group (h : Vector Word 5) (i : Fin 5) :
    ((renderDigest h).drop (8 * i.val)).take 8 = hexWord h[i] := by
  fin_cases i <;> rfl

theorem renderDigest_mem_hexDigit {h : Vector Word 5} {c : Char} (hc : c ∈ renderDigest h) :
    ∃ n, c = hexDigit n := by
  obtain ⟨i, -, hc⟩ := List.mem_flatMap.mp (renderDigest_eq_flatMap h ▸ hc)
  obtain ⟨k, -, rfl⟩ := List.mem_map.mp hc
  exact ⟨_, rfl⟩

end Sys2Proof.Machine

namespace Sys2Proof
open Machine

/-- Settles O56: the bits of the stream as `bitsOf_padMessage` lists them, with the least number of zeros. -/
theorem paddingFollowsRule : Obligations.PaddingFollowsRule := by
  intro msg _
  obtain ⟨hmod, hleast⟩ := zeroBytes_least msg.length
  refine ⟨_, bitsOf_padMessage msg, hmod, hleast, ?_⟩
  rw [length_bitsOf, length_padMessage]
  omega

/-- Settles O57: the blocks are the stream cut by `blockWords`, and the length field ends the last of them. -/
theorem blocksAndWords : Obligations.BlocksAndWords := by
  intro msg
  refine ⟨length_padMessage msg, length_messageBlocks msg, fun k hk => messageBlocks_getElem? msg hk,
    fun k j => ?_, fun _ last hlast => ?_⟩
  · rw [blockWords_getElem, wordAt, bytes_append_eq_or]
  · obtain rfl : blockWords (padMessage msg) _ = last := by simpa [messageBlocks_getLast?] using hlast
    exact padMessage_lengthWords msg

/-- Settles O58: every character is a `hexDigit`, and each group of eight is the `hexWord` of its word. -/
theorem digestRendering : Obligations.DigestRendering := by
  intro h
  refine ⟨rfl, fun c hc => ?_, fun i => ?_⟩
  · obtain ⟨n, rfl⟩ := renderDigest_mem_hexDigit hc
    exact hexDigit_mem n
  · rw [renderDigest_group, hexNumber_hexWord]

end Sys2Proof
end

/-! PROOFS. The error a write to CTRL or H records (R244 to R246), in the priority of R249. -/

section
namespace Sys2Proof.Machine

/-- A command word is illegal exactly where it is at least 5 (R86). -/
theorem commandWord_illegal_iff (data : Word) :
    (data.extractLsb' 4 28 ≠ 0#28 ∨ 5 ≤ (data.extractLsb' 0 4).toNat) ↔ 5 ≤ data.toNat := by
  simp only [ne_eq, ← BitVec.toNat_inj, BitVec.extractLsb'_toNat, BitVec.toNat_ofNat, Nat.shiftRight_eq_div_pow]
  omega

/-- The one outcome a write of `data` to CTRL reports, in the order of R249: the first error that applies, or none. -/
def ctrlRefusal (data : Word) (s : State) : Option CommandError :=
  if 5 ≤ data.toNat then some .badCmd
  else if (data = 1 ∨ data = 2) ∧ s.busy = true then some .busy
  else if data = 2 ∧ s.wvalid ≠ 0xFFFF#16 then some .incomplete
  else none

/-- A write to CTRL records the error of `ctrlRefusal`; where there is none, CLRSTAT clears ERRCODE and the other
commands keep ERR and ERRCODE. -/
theorem exec_wrCtrl_refusal (data : Word) (s : State) :
    (∃ e, ctrlRefusal data s = some e ∧ exec (.wrCtrl data) s = .next (acknowledge (recordError e s))) ∨
    (ctrlRefusal data s = none ∧ ∃ s', exec (.wrCtrl data) s = .next s' ∧
      ((data = 4 ∧ s'.errcode = 0) ∨ (s'.err = s.err ∧ s'.errcode = s.errcode))) := by
  rcases exec_wrCtrl_cases data s with ⟨rfl, h⟩ | ⟨rfl, h⟩ | ⟨rfl, h⟩ | ⟨rfl, h⟩ | ⟨rfl, h⟩ | ⟨hIll, h⟩
  · exact .inr ⟨by simp [ctrlRefusal], _, h, .inr ⟨rfl, rfl⟩⟩
  · rcases exec_init_cases s with ⟨hb, h'⟩ | ⟨hb, h'⟩
    · exact .inl ⟨.busy, by simp [ctrlRefusal, hb], h.trans h'⟩
    · exact .inr ⟨by simp [ctrlRefusal, hb], _, h.trans h', .inr ⟨rfl, rfl⟩⟩
  · rcases exec_start_cases s with ⟨hb, h'⟩ | ⟨hb, hv, h'⟩ | ⟨hb, hv, h'⟩
    · exact .inl ⟨.busy, by simp [ctrlRefusal, hb], h.trans h'⟩
    · exact .inl ⟨.incomplete, by simp [ctrlRefusal, hb, hv], h.trans h'⟩
    · exact .inr ⟨by simp [ctrlRefusal, hb, hv], _, h.trans h', .inr ⟨rfl, rfl⟩⟩
  · exact .inr ⟨by simp [ctrlRefusal], _, h, .inr ⟨rfl, rfl⟩⟩
  · exact .inr ⟨by simp [ctrlRefusal], _, h, .inl ⟨rfl, rfl⟩⟩
  · exact .inl ⟨.badCmd, if_pos ((commandWord_illegal_iff data).mp hIll), h⟩

/-- ERRCODE after a write to CTRL with no error recorded before it: the code of `ctrlRefusal`, or 0. -/
theorem exec_wrCtrl_errcode_first (data : Word) {s : State} (he : s.err = false) (hc : s.errcode = 0) :
    ∃ s', exec (.wrCtrl data) s = .next s' ∧ s'.errcode = ((ctrlRefusal data s).map CommandError.code).getD 0 := by
  rcases exec_wrCtrl_refusal data s with ⟨e, hr, h⟩ | ⟨hr, s', h, ⟨-, hcode⟩ | ⟨-, hcode⟩⟩
  · exact ⟨_, h, by simp [hr, he]⟩
  · exact ⟨s', h, by simp [hr, hcode]⟩
  · exact ⟨s', h, by simp [hr, hcode, hc]⟩

/-- With an error recorded, every write to CTRL but CLRSTAT keeps it (R241). -/
theorem exec_wrCtrl_keeps_error {data : Word} (hne : data ≠ 4) {s : State} (he : s.err = true) :
    ∃ s', exec (.wrCtrl data) s = .next s' ∧ s'.err = true ∧ s'.errcode = s.errcode := by
  rcases exec_wrCtrl_refusal data s with ⟨e, -, h⟩ | ⟨-, s', h, ⟨h4, -⟩ | ⟨herr, hcode⟩⟩
  · exact ⟨_, h, by simp [he]⟩
  · exact absurd h4 hne
  · exact ⟨s', h, herr.trans he, hcode⟩

/-- ERRCODE after a write of H[k] is BUSY where that is its first error, else it is kept (R124, R241). -/
theorem writeH_errcode (k : Fin 5) (data : Word) (s : State) :
    (writeH k data s).errcode = if s.busy = true ∧ s.err = false then 2#3 else s.errcode := by
  cases hb : s.busy
  · simp [writeH_of_idle k data s hb]
  · simp [writeH_of_busy k data s hb, CommandError.code]

/-- A write of H[k] clears no error. -/
theorem writeH_err_of_err (k : Fin 5) (data : Word) {s : State} (he : s.err = true) :
    (writeH k data s).err = true := by
  cases hb : s.busy
  · rwa [writeH_of_idle k data s hb]
  · simp [writeH_of_busy k data s hb]

end Sys2Proof.Machine
end

/-! PROOFS. The accesses that get a bus error (R248). -/

section
namespace Sys2Proof

/-- The register at an aligned offset has that offset (R83). -/
theorem regOffset_windowReg {off : BitVec 7} (halign : off.extractLsb' 0 2 = 0#2) :
    regOffset (windowReg off) = off := by
  revert off
  decide

/-- The accesses of size 4 at an aligned offset that get a bus error: those to a reserved register, and the writes of
the read-only ones (R126, R127). -/
def getsBusError (dir : Dir) (reg : WindowReg) : Bool :=
  match reg with
  | .rsvd _ => true
  | .id | .status => dir = .write
  | .ctrl | .irqen | .h _ | .m _ => false

/-- `getsBusError` by the offset (R248). -/
theorem getsBusError_iff (dir : Dir) (reg : WindowReg) :
    getsBusError dir reg = true ↔
      (0x24 ≤ (regOffset reg).toNat ∧ (regOffset reg).toNat ≤ 0x3C) ∨
        (dir = .write ∧ ((regOffset reg).toNat = 0x00 ∨ (regOffset reg).toNat = 0x08)) := by
  cases reg with
  | id | ctrl | status | irqen => simp [getsBusError, regOffset]
  | h i => revert i; simp [getsBusError, regOffset, hOffset, Fin.forall_fin_succ]
  | rsvd k => revert k; simp [getsBusError, regOffset, Fin.forall_fin_succ]
  | m j =>
    simp only [getsBusError, regOffset_m_toNat, Bool.false_eq_true, false_iff]
    omega

end Sys2Proof

namespace Sys2Proof.Machine

/-- An access to a reserved register, in either direction, ends with a bus error at its offset (R127). -/
theorem exec_rsvdInstr (k : Fin 7) (dir : Dir) (data : Word) (s : State) :
    exec (rsvdInstr k dir data) s = .next (busError (regOffset (.rsvd k)) s) := by
  revert k
  simp [rsvdInstr, regOffset, Fin.forall_fin_succ]

/-- A write of an accumulator's register is the write of that H[i] (R124). -/
theorem exec_write_h (i : Fin 5) (data : Word) (s : State) :
    exec (writeInstr (.h i) data) s = .next (acknowledge (writeH i data s)) := by
  revert i
  simp [writeInstr, Fin.forall_fin_succ]

/-- An access that gets a bus error changes only the answer, at its register's offset (R242). -/
theorem exec_access_busError {dir : Dir} {reg : WindowReg} (hfails : getsBusError dir reg = true) (data : Word)
    (s : State) : exec (accessInstr dir reg data) s = .next (busError (regOffset reg) s) := by
  cases reg with
  | rsvd k => rw [accessInstr_rsvd, exec_rsvdInstr]
  | id | status =>
    obtain rfl : dir = .write := by simpa [getsBusError] using hfails
    rfl
  | ctrl | irqen | h | m => cases hfails

/-- Every other write completes. -/
theorem exec_write_completes {reg : WindowReg} (hok : getsBusError .write reg = false) (data : Word) (s : State) :
    ∃ s', exec (accessInstr .write reg data) s = .next s' ∧ s'.response = .written := by
  cases reg with
  | id | status | rsvd => cases hok
  | ctrl => exact exec_wrCtrl_completes data s
  | irqen => exact ⟨_, exec_wrIrqen data s, rfl⟩
  | h i => exact ⟨_, exec_write_h i data s, rfl⟩
  | m j => exact ⟨_, exec_wrM j data s, rfl⟩

/-- Every other read is answered with a value. -/
theorem exec_read_completes {reg : WindowReg} (hok : getsBusError .read reg = false) (s : State) :
    ∃ s' v, exec (accessInstr .read reg 0) s = .next s' ∧ s'.response = .value v := by
  have hasValue : ∃ v, memRead reg s = some v := by
    cases reg with
    | rsvd => cases hok
    | id | ctrl | status | irqen | h | m => exact ⟨_, rfl⟩
  obtain ⟨v, hv⟩ := hasValue
  exact ⟨_, v, exec_read hv, rfl⟩

/-- A well-formed access that gets no bus error completes, as a write or with a value. -/
theorem exec_access_completes {dir : Dir} {reg : WindowReg} {data : Word} (hfits : dataFits dir data = true)
    (hok : getsBusError dir reg = false) (s : State) :
    ∃ s', exec (accessInstr dir reg data) s = .next s' ∧ (s'.response = .written ∨ ∃ v, s'.response = .value v) := by
  cases dir with
  | read =>
    obtain rfl : data = 0 := by simpa [dataFits] using hfits
    obtain ⟨s', v, h, hresp⟩ := exec_read_completes hok s
    exact ⟨s', h, .inr ⟨v, hresp⟩⟩
  | write =>
    obtain ⟨s', h, hresp⟩ := exec_write_completes hok data s
    exact ⟨s', h, .inl hresp⟩

end Sys2Proof.Machine
end

/-! PROOFS. The exceptions: refused commands (R246, R249) and bus errors (R248). -/

section
namespace Sys2Proof
open Machine

/-- Settles O26: the writes to CTRL report `ctrlRefusal`, those to H BUSY or nothing. -/
theorem commandErrorsByPriority : Obligations.CommandErrorsByPriority := by
  refine ⟨fun s he hc => ⟨fun data => ?_, fun data i hi => ?_⟩,
    fun s he => ⟨fun data hne => exec_wrCtrl_keeps_error hne he, fun data i hi => ?_⟩⟩
  · obtain ⟨s', h, hcode⟩ := exec_wrCtrl_errcode_first data he hc
    refine ⟨s', h, hcode.trans ?_⟩
    unfold ctrlRefusal
    split_ifs <;> rfl
  · obtain ⟨k, h⟩ := exec_wrH_of_mem hi s
    exact ⟨_, h, by simp [writeH_errcode, he, hc]⟩
  · obtain ⟨k, h⟩ := exec_wrH_of_mem hi s
    exact ⟨_, h, by simp [writeH_err_of_err k data he, writeH_errcode, he]⟩

/-- Settles O32: a wrong size and a misaligned offset are found before any access; of the accesses, `getsBusError`
names those that fail, and the others complete. -/
theorem busErrorsExactlyFourCauses : Obligations.BusErrorsExactlyFourCauses := by
  intro s t rest hp hw off cause
  rcases decodeTxn_cases t.record t.size with ⟨hbad, -⟩ | ⟨-, hsize, hd⟩ | ⟨-, -, halign, hd⟩ | ⟨-, hsize, halign, hd⟩
  · cases hbad.symm.trans hw
  · have hcause : cause := .inl hsize
    exact ⟨_, step_host_busError hp (.inl hd), fun _ => rfl, fun hno => absurd hcause hno⟩
  · have hcause : cause := .inr (.inl (mt (off_aligned_iff _).mpr halign))
    exact ⟨_, step_host_busError hp (.inr hd), fun _ => rfl, fun hno => absurd hcause hno⟩
  · have hoff := regOffset_windowReg halign
    have hcause : cause ↔ getsBusError (recordDir t.record) (windowReg (recordOff t.record)) = true := by
      rw [getsBusError_iff, hoff]
      simp [cause, off, hsize, (off_aligned_iff _).mp halign]
    rw [step_host hp hd, hcause]
    cases hfails : getsBusError (recordDir t.record) (windowReg (recordOff t.record)) with
    | true => exact ⟨_, exec_access_busError hfails _ _, fun _ => by rw [hoff]; rfl, fun h => absurd rfl h⟩
    | false =>
      obtain ⟨s', h, hresp⟩ := exec_access_completes hw hfails { s with pending := rest }
      exact ⟨s', h, fun h => (Bool.false_ne_true h).elim, fun _ => hresp⟩

/-- Settles O22: the two refusals are recorded by `record_error`, from both values of ERR. -/
theorem startRefusals : Obligations.StartRefusals := by
  refine fun s => ⟨fun hb hv he => ?_, fun hb he => ?_, fun hwhy he => ?_⟩
  · rw [exec_start_incomplete s hb hv, acknowledge_recordError_first .incomplete he]
    rfl
  · rw [exec_start_busy s hb, acknowledge_recordError_first .busy he]
    rfl
  · rcases exec_start_cases s with ⟨-, h⟩ | ⟨-, -, h⟩ | ⟨hb, hv, -⟩
    · rw [h, acknowledge_recordError_later .busy he]
    · rw [h, acknowledge_recordError_later .incomplete he]
    · simp [hb, hv] at hwhy

end Sys2Proof
end

/-! PROOFS. What the host finds after reset (R273). -/

section
namespace Sys2Proof.Machine

/-- After reset STATUS reads 0: every field it is made of is 0 (R45). -/
theorem statusWord_reset : statusWord State.reset = 0x00000000#32 := by decide

/-- After reset IRQEN reads 0: neither cause is enabled (R45). -/
theorem irqenWord_reset : irqenWord State.reset = 0x00000000#32 := by decide

/-- After reset every message word is 0 (R45). -/
theorem reset_m_getElem (j : Fin 16) : State.reset.m[j] = 0x00000000#32 :=
  Vector.getElem_replicate j.isLt

end Sys2Proof.Machine

namespace Sys2Proof
open Machine

/-- Settles O11: each read answers its register's reset value; START finds the machine idle with ERR = 0, so what is
missing from WVALID alone decides it. -/
theorem afterResetHostReads : Obligations.AfterResetHostReads := by
  refine ⟨exec_rdId _, ?status, ?irqen, exec_rdH0 _, exec_rdH1 _, exec_rdH2 _, exec_rdH3 _, exec_rdH4 _, fun j => ?m,
    irq_eq_false_of_clear rfl rfl, fun m valid hv => ?start⟩
  case status =>
    rw [exec_rdStatus, statusWord_reset]
    rfl
  case irqen =>
    rw [exec_rdIrqen, irqenWord_reset]
    rfl
  case m =>
    rw [exec_rdM, reset_m_getElem]
    rfl
  case start =>
    have incomplete := exec_start_incomplete { State.reset with m := m, wvalid := valid } rfl hv
    rw [incomplete, acknowledge_recordError_first .incomplete rfl]
    rfl

end Sys2Proof
end

/-! PROOFS. What one step can do, command by command: the cases from which the claims about writers are read off. -/

section
namespace Sys2Proof.Machine

/-- The state a step starts from: the head of the pending events is taken off. -/
def State.taken (s : State) : State := { s with pending := s.pending.tail }

/-- The effects of a step, each with the condition under which it happens. -/
inductive StepEffect (s : State) : State → Prop where
  /-- only the answer on the bus changes, or nothing at all -/
  | answers (answer : Response) : StepEffect s { s.taken with response := answer }
  | resets (isReset : s.resets = true) : StepEffect s (resetStep s.taken)
  /-- a command or a write to H is refused (R241) -/
  | refuses (e : CommandError) :
      StepEffect s { s.taken with
        err := true, errcode := if s.err then s.errcode else e.code, response := .written }
  /-- INIT accepted (R119) -/
  | inits (ran : s.runs = some (.wrCtrl 0x1#32)) (idle : s.busy = false) :
      StepEffect s (acknowledge { loadIv s.taken with t := 0, done := false })
  /-- START accepted (R120) -/
  | starts (ran : s.runs = some (.wrCtrl 0x2#32)) (idle : s.busy = false) (full : s.wvalid = 0xFFFF#16) :
      StepEffect s
        (acknowledge { loadWork (loadWindow s.taken) with t := 0, wvalid := 0, done := false, busy := true })
  /-- ABORT (R121) -/
  | aborts (ran : s.runs = some (.wrCtrl 0x3#32)) :
      StepEffect s (acknowledge { s.taken with busy := false, done := false, t := 0 })
  /-- CLRSTAT (R122) -/
  | clears (ran : s.runs = some (.wrCtrl 0x4#32)) : StepEffect s (acknowledge (clearStatus s.taken))
  | writesIrqen (data : Word) (ran : s.runs = some (.wrIrqen data)) :
      StepEffect s (acknowledge (writeIrqen data s.taken))
  | writesM (j : Fin 16) (data : Word) (ran : s.runs = some (.wrM j data)) :
      StepEffect s (acknowledge (writeM j data s.taken))
  | writesH (i : Fin 5) (data : Word) (asked : ∃ e ∈ s.pending.head?, e.writesH) (idle : s.busy = false) :
      StepEffect s (acknowledge { s.taken with h := s.h.set i data })
  | rounds (x : Bool) (k : BitVec 2) (f : BoolFn) (ran : ∃ i ∈ roundOps, s.runs = some i) (busy : s.busy = true)
      (inRom : s.t.toNat < 80) : StepEffect s (roundStep x k f s.taken)
  | finalizes (ran : s.runs = some .fin) (busy : s.busy = true) (last : s.t = 80#7) : StepEffect s (finalize s.taken)

/-- A command or a write to H that is refused. -/
theorem stepEffect_refused (e : CommandError) (s : State) :
    StepEffect s (acknowledge (recordError e s.taken)) := by
  rw [acknowledge_recordError]
  exact .refuses e

/-- What a write to CTRL does, by its command word. -/
theorem stepEffect_wrCtrl {s s' : State} {data : Word} (ran : s.runs = some (.wrCtrl data))
    (h : exec (.wrCtrl data) s.taken = .next s') : StepEffect s s' := by
  rcases exec_wrCtrl_cases data s.taken with ⟨rfl, e⟩ | ⟨rfl, e⟩ | ⟨rfl, e⟩ | ⟨rfl, e⟩ | ⟨rfl, e⟩ | ⟨_, e⟩
  · cases e.symm.trans h
    exact .answers .written
  · rcases exec_init_cases s.taken with ⟨_, e'⟩ | ⟨hb, e'⟩ <;> cases (e.trans e').symm.trans h
    · exact stepEffect_refused .busy s
    · exact .inits ran hb
  · rcases exec_start_cases s.taken with ⟨_, e'⟩ | ⟨_, _, e'⟩ | ⟨hb, hv, e'⟩ <;> cases (e.trans e').symm.trans h
    · exact stepEffect_refused .busy s
    · exact stepEffect_refused .incomplete s
    · exact .starts ran hb hv
  · cases e.symm.trans h
    exact .aborts ran
  · cases e.symm.trans h
    exact .clears ran
  · cases e.symm.trans h
    exact stepEffect_refused .badCmd s

/-- A write to H while idle, or its refusal while busy. -/
theorem stepEffect_writeH (i : Fin 5) (data : Word) {s : State} (asked : ∃ e ∈ s.pending.head?, e.writesH) :
    StepEffect s (acknowledge (writeH i data s.taken)) := by
  cases hb : s.busy with
  | true => rw [writeH_of_busy i data s.taken hb]; exact stepEffect_refused .busy s
  | false => rw [writeH_of_idle i data s.taken hb]; exact .writesH i data asked hb

/-- Every step that answers a next state has one of the effects. -/
theorem stepEffect_of_step {s s' : State} (h : step s = .next s') : StepEffect s s' := by
  rcases step_effects h with rfl | ⟨answer, rfl⟩ | ⟨hr, rfl⟩ | ⟨data, ran, he⟩ | ⟨data, ran, rfl⟩ |
    ⟨j, data, ran, rfl⟩ | ⟨i, data, asked, rfl⟩ | ⟨hb, ht, ran, x, k, f, rfl⟩ | ⟨ran, hb, ht, rfl⟩
  · exact .answers s.response
  · exact .answers answer
  · exact .resets hr
  · exact stepEffect_wrCtrl ran he
  · exact .writesIrqen data ran
  · exact .writesM j data ran
  · exact stepEffect_writeH i data asked
  · exact .rounds x k f ran hb ht
  · exact .finalizes ran hb ht

/-- A step takes off the event it is about and leaves the later ones. -/
theorem step_pending {s s' : State} (h : step s = .next s') : s'.pending = s.pending.tail := by
  cases stepEffect_of_step h <;> rfl

/-- No step writes the control ROM (R28). -/
theorem step_rom {s s' : State} (h : step s = .next s') : s'.rom = s.rom := by
  cases stepEffect_of_step h <;> rfl

/-- ERRCODE after a refusal is the legal code of the first error (R37, R241). -/
theorem errcodeLegal_refused (e : CommandError) {s : State} (h : s.errcodeLegal) :
    ((if s.err then s.errcode else e.code) = 0 ↔ true = false) ∧
      (if s.err then s.errcode else e.code).toNat < 4 := by
  obtain ⟨hzero, hlegal⟩ := h
  cases herr : s.err with
  | false => cases e <;> simp [CommandError.code]
  | true => simpa [herr, hlegal] using hzero

/-- A round advances T without wrapping (R128). -/
theorem roundCounter_succ {t : BitVec 7} (ht : t.toNat < 80) : (t + 1).toNat = t.toNat + 1 := by
  rw [BitVec.toNat_add_of_lt] <;> simp
  omega

/-- Every step keeps the invariant. -/
theorem step_inv {s s' : State} (hi : s.Inv) (h : step s = .next s') : s'.Inv := by
  obtain ⟨hrange, hidle, hdone, herr, hrom⟩ := hi
  have hclear : (0#3 = 0#3 ↔ false = false) ∧ (0#3).toNat < 4 := by decide
  cases stepEffect_of_step h with
  | answers | writesIrqen | writesM | writesH => exact ⟨hrange, hidle, hdone, herr, hrom⟩
  | refuses e => exact ⟨hrange, hidle, hdone, errcodeLegal_refused e herr, hrom⟩
  | resets => exact ⟨Nat.zero_le _, fun _ => .inl rfl, nofun, hclear, hrom⟩
  | inits => exact ⟨Nat.zero_le _, fun _ => .inl rfl, nofun, herr, hrom⟩
  | starts => exact ⟨Nat.zero_le _, nofun, nofun, herr, hrom⟩
  | aborts => exact ⟨Nat.zero_le _, fun _ => .inl rfl, nofun, herr, hrom⟩
  | clears => exact ⟨hrange, hidle, nofun, hclear, hrom⟩
  | rounds x k f _ hb ht =>
    have hbusy : (roundStep x k f s.taken).busy = true := hb
    refine ⟨(roundCounter_succ ht).le.trans ht, fun hb' => ?_, fun hd => ?_, herr, hrom⟩
    · exact absurd (hbusy.symm.trans hb') (by decide)
    · exact absurd (hb.symm.trans (hdone hd).1) (by decide)
  | finalizes _ _ ht => exact ⟨hrange, fun _ => .inr ht, fun _ => ⟨rfl, ht⟩, herr, hrom⟩

end Sys2Proof.Machine

namespace Sys2Proof
open Machine

/-- Settles O45, by the effects of a step. -/
theorem stepKeepsInvariant : Obligations.StepKeepsInvariant :=
  fun _ _ => step_inv

/-- Settles O44: each clause compares values of the reset table. -/
theorem invariantHoldsAtReset : Obligations.InvariantHoldsAtReset := by
  unfold Obligations.InvariantHoldsAtReset
  decide

end Sys2Proof
end

/-! PROOFS. Who writes what (R24 to R28, R34 to R40, R128). -/

section
namespace Sys2Proof
open Machine

/-- Settles O47: of the effects, only these four write H. -/
theorem onlyFourThingsWriteH : Obligations.OnlyFourThingsWriteH := by
  intro s s' h hne
  cases stepEffect_of_step h with
  | answers | refuses | starts | aborts | clears | writesIrqen | writesM | rounds => exact absurd rfl hne
  | resets hr => exact .inl hr
  | finalizes ran hb ht => exact .inr (.inl ⟨ran, hb, ht⟩)
  | inits ran hb => exact .inr (.inr ⟨hb, .inl ran⟩)
  | writesH _ _ asked hb => exact .inr (.inr ⟨hb, .inr asked⟩)

/-- Settles O48, first M, then the bits of WVALID that rise, then those that fall. -/
theorem messageBufferWriters : Obligations.MessageBufferWriters := by
  intro s s' h
  refine ⟨fun j hne => ?_, fun j hclear hset => ?_, fun j hset hclear => ?_⟩
  · cases stepEffect_of_step h with
    | resets hr => exact .inl hr
    | writesM k data ran =>
      obtain rfl : k = j := by
        by_contra hkj
        exact hne (Vector.getElem_set_ne k.isLt j.isLt fun e => hkj (Fin.ext e))
      exact .inr ⟨data, ran, Vector.getElem_set_self k.isLt⟩
    | _ => exact absurd rfl hne
  · cases stepEffect_of_step h with
    | writesM k data ran =>
      have hbit := (getLsbD_writeM_wvalid k j data s.taken).symm.trans hset
      rw [show s.taken.wvalid.getLsbD j.val = false from hclear, Bool.or_false, decide_eq_true_eq] at hbit
      exact ⟨data, hbit ▸ ran⟩
    | resets | starts => exact absurd hset (by simp [State.reset])
    | _ => exact absurd (hclear.symm.trans hset) Bool.false_ne_true
  · cases stepEffect_of_step h with
    | resets hr => exact .inl hr
    | starts ran hb hv => exact .inr ⟨ran, hb, hv, rfl⟩
    | writesM k data ran =>
      have hbit := (getLsbD_writeM_wvalid k j data s.taken).symm.trans hclear
      rw [show s.taken.wvalid.getLsbD j.val = true from hset, Bool.or_true] at hbit
      exact absurd hbit.symm Bool.false_ne_true
    | _ => exact absurd (hclear.symm.trans hset) Bool.false_ne_true

/-- Settles O49: a round adds 1, and the other effects that write T clear it. -/
theorem roundCounterWriters : Obligations.RoundCounterWriters := by
  intro s s' h hne
  cases stepEffect_of_step h with
  | resets hr => exact .inr ⟨rfl, .inl hr⟩
  | inits ran => exact .inr ⟨rfl, .inr ⟨_, by simp, ran⟩⟩
  | starts ran => exact .inr ⟨rfl, .inr ⟨_, by simp, ran⟩⟩
  | aborts ran => exact .inr ⟨rfl, .inr ⟨_, by simp, ran⟩⟩
  | rounds _ _ _ ran hb ht => exact .inl ⟨hb, ht, rfl, ran⟩
  | _ => exact absurd rfl hne

/-- Settles O50: each effect that sets or clears a flag is one of the listed commands, FIN or a reset. -/
theorem busyAndDoneWriters : Obligations.BusyAndDoneWriters := by
  intro s s' h
  cases stepEffect_of_step h with
  | answers | writesIrqen | writesM | writesH | rounds | refuses => simp +contextual [State.taken]
  | resets hr => simp [State.reset, hr]
  | inits ran hb => simp [State.taken, ran, hb]
  | starts ran hb hv => simp [ran, hb, hv]
  | aborts ran => simp [ran]
  | clears ran => simp +contextual [State.taken, ran]
  | finalizes ran => simp [ran]

/-- Settles O51: with ERR = 1 a refused command records nothing, and only CLRSTAT and reset clear the error. -/
theorem firstErrorIsKept : Obligations.FirstErrorIsKept := by
  intro s s' h herr
  cases stepEffect_of_step h with
  | resets hr => exact .inr (.inl hr)
  | clears ran => exact .inr (.inr ran)
  | refuses => simp [herr]
  | _ => exact .inl ⟨herr, rfl⟩

/-- Settles O52: W and A..E belong to START and the rounds, the enables to the write of IRQEN. -/
theorem engineStateWriters : Obligations.EngineStateWriters := by
  intro s s' h
  refine ⟨step_rom h, fun hne => ?_, fun hne => ?_⟩
  · cases stepEffect_of_step h with
    | resets hr => exact .inl hr
    | starts ran hb => exact .inr (.inl ⟨ran, hb, rfl⟩)
    | rounds _ _ _ _ hb ht => exact .inr (.inr ⟨hb, ht, rfl⟩)
    | _ => simp [State.taken] at hne
  · cases stepEffect_of_step h with
    | resets hr => exact .inl hr
    | writesIrqen data ran => exact .inr ⟨data, ran⟩
    | _ => simp [State.taken] at hne

end Sys2Proof
end

/-! PROOFS. Encoding: each instruction as an access, a command or a micro-operation, and its words (R81 to R95). -/

section
namespace Sys2Proof
open Machine

/-- The instructions that no transaction record stands for: the five commands, the five rounds and FIN. -/
abbrev bareOps : List Instr :=
  [.nop, .init, .start, .abort, .clrstat, .rndSelK0, .rndSelK0X, .rndXorK1X, .rndMajK2X, .rndXorK3X, .fin]

/-- The record of an access: RW, the register's offset and DATA (R81). -/
theorem encode_accessInstr {dir : Dir} (reg : WindowReg) {data : Word} (hfits : dataFits dir data = true) :
    encode (accessInstr dir reg data) = .txn (mkRecord dir (regOffset reg) data) := by
  cases dir with
  | write =>
    cases reg with
    | h i => revert i; simp [accessInstr, writeInstr, encode, regOffset, hOffset, Fin.forall_fin_succ]
    | rsvd k => revert k; simp [accessInstr_rsvd, rsvdInstr, encode, regOffset, Fin.forall_fin_succ]
    | _ => rfl
  | read =>
    obtain rfl : data = 0 := by simpa [dataFits] using hfits
    cases reg with
    | h i => revert i; simp [accessInstr, readInstr, encode, regOffset, hOffset, Fin.forall_fin_succ]
    | rsvd k => revert k; simp [accessInstr_rsvd, rsvdInstr, encode, regOffset, Fin.forall_fin_succ]
    | _ => rfl

/-- An access whose DATA fits is well formed. -/
theorem wellFormed_accessInstr {dir : Dir} (reg : WindowReg) {data : Word} (hfits : dataFits dir data = true) :
    (accessInstr dir reg data).wellFormed = true := by
  cases reg with
  | rsvd k => rw [accessInstr_rsvd]; revert k; simp [rsvdInstr, Instr.wellFormed, Fin.forall_fin_succ, hfits]
  | h i => revert i; cases dir <;> simp [accessInstr, readInstr, writeInstr, Instr.wellFormed, Fin.forall_fin_succ]
  | _ => cases dir <;> rfl

/-- Decoding the record of an access gives it back. -/
theorem decode_encode_accessInstr {dir : Dir} (reg : WindowReg) {data : Word} (hfits : dataFits dir data = true) :
    decode (encode (accessInstr dir reg data)) = .ok (accessInstr dir reg data) := by
  rw [encode_accessInstr reg hfits, decode, decodeTxn_mkRecord dir _ data hfits (regOffset_aligned reg),
    windowReg_regOffset]

/-- A well-formed instruction is an access whose DATA fits, or one that no record stands for. -/
theorem access_or_bare_of_wellFormed {i : Instr} (hi : i.wellFormed = true) :
    i ∈ bareOps ∨ ∃ dir reg data, dataFits dir data = true ∧ i = accessInstr dir reg data := by
  have reserved (k : Fin 7) (dir : Dir) (data : Word) (hfits : dataFits dir data = true) :
      ∃ dir' reg data', dataFits dir' data' = true ∧ rsvdInstr k dir data = accessInstr dir' reg data' :=
    ⟨dir, .rsvd k, data, hfits, (accessInstr_rsvd dir k data).symm⟩
  cases i with
  | nop | init | start | abort | clrstat => left; decide
  | rndSelK0 | rndSelK0X | rndXorK1X | rndMajK2X | rndXorK3X | fin => left; decide
  | rdId => exact .inr ⟨.read, .id, 0, rfl, rfl⟩
  | rdCtrl => exact .inr ⟨.read, .ctrl, 0, rfl, rfl⟩
  | rdStatus => exact .inr ⟨.read, .status, 0, rfl, rfl⟩
  | rdIrqen => exact .inr ⟨.read, .irqen, 0, rfl, rfl⟩
  | rdH0 => exact .inr ⟨.read, .h 0, 0, rfl, rfl⟩
  | rdH1 => exact .inr ⟨.read, .h 1, 0, rfl, rfl⟩
  | rdH2 => exact .inr ⟨.read, .h 2, 0, rfl, rfl⟩
  | rdH3 => exact .inr ⟨.read, .h 3, 0, rfl, rfl⟩
  | rdH4 => exact .inr ⟨.read, .h 4, 0, rfl, rfl⟩
  | rdM j => exact .inr ⟨.read, .m j, 0, rfl, rfl⟩
  | wrCtrl data => exact .inr ⟨.write, .ctrl, data, rfl, rfl⟩
  | wrIrqen data => exact .inr ⟨.write, .irqen, data, rfl, rfl⟩
  | wrH0 data => exact .inr ⟨.write, .h 0, data, rfl, rfl⟩
  | wrH1 data => exact .inr ⟨.write, .h 1, data, rfl, rfl⟩
  | wrH2 data => exact .inr ⟨.write, .h 2, data, rfl, rfl⟩
  | wrH3 data => exact .inr ⟨.write, .h 3, data, rfl, rfl⟩
  | wrH4 data => exact .inr ⟨.write, .h 4, data, rfl, rfl⟩
  | wrM j data => exact .inr ⟨.write, .m j, data, rfl, rfl⟩
  | wrRoId data => exact .inr ⟨.write, .id, data, rfl, rfl⟩
  | wrRoStatus data => exact .inr ⟨.write, .status, data, rfl, rfl⟩
  | accRsvd24 dir data => exact .inr (reserved 0 dir data hi)
  | accRsvd28 dir data => exact .inr (reserved 1 dir data hi)
  | accRsvd2C dir data => exact .inr (reserved 2 dir data hi)
  | accRsvd30 dir data => exact .inr (reserved 3 dir data hi)
  | accRsvd34 dir data => exact .inr (reserved 4 dir data hi)
  | accRsvd38 dir data => exact .inr (reserved 5 dir data hi)
  | accRsvd3C dir data => exact .inr (reserved 6 dir data hi)

/-- Settles O2: an access by the fields of its record, the eleven other instructions by their one word each. -/
theorem decodeEncodeRoundTrip : Obligations.DecodeEncodeRoundTrip := by
  intro i hi
  obtain hbare | ⟨dir, reg, data, hfits, rfl⟩ := access_or_bare_of_wellFormed hi
  · have bare : ∀ i ∈ bareOps, decode (encode i) = .ok i := by decide
    exact bare i hbare
  · exact decode_encode_accessInstr reg hfits

/-- A record at an aligned offset is put together from its register. -/
theorem mkRecord_windowReg {r : BitVec 40} (halign : (recordOff r).extractLsb' 0 2 = 0#2) :
    mkRecord (recordDir r) (regOffset (windowReg (recordOff r))) (recordData r) = r := by
  rw [regOffset_windowReg halign, mkRecord_fields]

/-- The command word of a decoded command is that command's own (R85). -/
theorem encode_of_decodeCommand {w : Word} {i : Instr} (h : decodeCommand w = .ok i) :
    encode i = .ctrl w ∧ i.wellFormed = true := by
  unfold decodeCommand at h
  split_ifs at h <;> cases h <;> simp [encode, Instr.wellFormed, *]

/-- The ROM word of a decoded round is that round's own (R88). -/
theorem encode_of_decodeRom {w : BitVec 8} {i : Instr} (h : decodeRom w = .ok i) :
    encode i = .rom w ∧ i.wellFormed = true := by
  unfold decodeRom at h
  split_ifs at h <;> cases h <;> simp [encode, Instr.wellFormed, *]

/-- FIN is selected by T = 80 alone (R80). -/
theorem encode_of_decodeStep {t : BitVec 7} {i : Instr} (h : decodeStep t = .ok i) :
    encode i = .step t ∧ i.wellFormed = true := by
  unfold decodeStep at h
  split_ifs at h with ht
  cases h
  exact ⟨congrArg Encoded.step ht.symm, rfl⟩

/-- Settles O3: a record by its fields, the other words by the one word of each instruction. -/
theorem encodeDecodeRoundTrip : Obligations.EncodeDecodeRoundTrip := by
  intro e i h
  cases e with
  | txn r =>
    rcases decodeTxn_cases r .four with ⟨-, hd⟩ | ⟨-, -, hd⟩ | ⟨-, -, -, hd⟩ | ⟨hw, -, halign, hd⟩
    case inr.inr.inr =>
      cases hd.symm.trans h
      exact ⟨(encode_accessInstr _ hw).trans (congrArg _ (mkRecord_windowReg halign)), wellFormed_accessInstr _ hw⟩
    all_goals cases hd.symm.trans h
  | ctrl w => exact encode_of_decodeCommand h
  | rom w => exact encode_of_decodeRom h
  | step t => exact encode_of_decodeStep h

/-- The row of an access does not depend on its DATA. -/
theorem opcodeRow_accessInstr (dir : Dir) (reg : WindowReg) (data : Word) :
    opcodeRow (accessInstr dir reg data) = opcodeRow (accessInstr dir reg 0) := by
  cases reg with
  | h i => revert i; cases dir <;> simp [accessInstr, readInstr, writeInstr, opcodeRow, Fin.forall_fin_succ]
  | rsvd k => simp only [accessInstr_rsvd]; revert k; simp [rsvdInstr, opcodeRow, Fin.forall_fin_succ]
  | _ => cases dir <;> rfl

/-- A TXN row masks DATA out, or it is the row of a read. -/
theorem txnRows_mask : ∀ row ∈ txnRows,
    row.mask.extractLsb' 0 32 = 0#32 ∨ (row.mask.getLsbD 39 = true ∧ row.bits.getLsbD 39 = false) := by
  decide

/-- A mask that is clear in bits 31:0 masks DATA out. -/
theorem mkRecord_and_of_low_clear {mask : BitVec 40} (hlow : mask.extractLsb' 0 32 = 0#32) (dir : Dir)
    (off : BitVec 7) (data : Word) : mkRecord dir off data &&& mask = mkRecord dir off 0 &&& mask := by
  apply BitVec.eq_of_getLsbD_eq
  intro i _
  simp only [BitVec.getLsbD_and, mkRecord_getLsbD]
  split
  · next hi =>
    have hbit : mask.getLsbD i = false := by simpa [hi] using congrArg (·.getLsbD i) hlow
    simp [hbit]
  · rfl

/-- A write does not belong to a row of reads, whose mask keeps the RW bit. -/
theorem mkRecord_write_and_ne {mask bits : BitVec 40} (hmask : mask.getLsbD 39 = true) (hbits : bits.getLsbD 39 = false)
    (off : BitVec 7) (data : Word) : mkRecord .write off data &&& mask ≠ bits := by
  rintro rfl
  rw [BitVec.getLsbD_and, hmask, mkRecord_getLsbD] at hbits
  exact Bool.false_ne_true hbits.symm

/-- Whether a write belongs to a TXN row does not depend on its DATA. -/
theorem matchesWord_write {row : OpcodeRow} (hrow : row ∈ txnRows) (off : BitVec 7) (data : Word) :
    row.matchesWord (.txn (mkRecord .write off data)) = row.matchesWord (.txn (mkRecord .write off 0)) := by
  simp only [OpcodeRow.matchesWord, Encoded.format, Encoded.bits]
  rcases txnRows_mask row hrow with hlow | ⟨hmask, hbits⟩
  · rw [mkRecord_and_of_low_clear hlow]
  · rw [beq_eq_false_iff_ne.mpr (mkRecord_write_and_ne hmask hbits off data),
      beq_eq_false_iff_ne.mpr (mkRecord_write_and_ne hmask hbits off 0)]

/-- A record without DATA belongs to the row of its access alone. -/
theorem txnRows_filter_zero (dir : Dir) (reg : WindowReg) :
    txnRows.filter (fun row => row.matchesWord (.txn (mkRecord dir (regOffset reg) 0))) =
      [opcodeRow (accessInstr dir reg 0)] := by
  cases reg with
  | id | ctrl | status | irqen => cases dir <;> decide
  | h i => revert i; cases dir <;> decide
  | rsvd k => revert k; cases dir <;> decide
  | m j => revert j; cases dir <;> decide

/-- The record of an access belongs to its row alone (R95). -/
theorem txnRows_filter {dir : Dir} (reg : WindowReg) {data : Word} (hfits : dataFits dir data = true) :
    txnRows.filter (fun row => row.matchesWord (.txn (mkRecord dir (regOffset reg) data))) =
      [opcodeRow (accessInstr dir reg data)] := by
  rw [opcodeRow_accessInstr, ← txnRows_filter_zero]
  cases dir with
  | read =>
    obtain rfl : data = 0 := by simpa [dataFits] using hfits
    rfl
  | write => exact List.filter_congr fun row hrow => matchesWord_write hrow _ data

/-- Settles O4: an aligned record is the access to its register, and `txnRows_filter` finds that access's row alone. -/
theorem alignedRecordMatchesOneRow : Obligations.AlignedRecordMatchesOneRow := by
  intro r hw hoff
  have halign := (off_aligned_iff _).mpr hoff
  have decoded := decode_txn_regOffset hw _ (congrArg BitVec.toNat (regOffset_windowReg halign).symm)
  have matched := txnRows_filter (windowReg (recordOff r)) hw
  rw [mkRecord_windowReg halign] at matched
  exact ⟨_, decoded, matched⟩

end Sys2Proof
end

/-! PROOFS. The single accesses and commands that are read off their meaning, and a read right after a write (R284). -/

section
namespace Sys2Proof.Machine

/-- Bit `i` of a flag widened to a word. -/
theorem getLsbD_flag (b : Bool) (i : Nat) : (if b then 1#32 else 0#32 : Word).getLsbD i = (decide (i = 0) && b) := by
  cases b <;> simp

/-- The STATUS word as the shifts of R113. -/
theorem statusWord_eq_shifts (s : State) :
    statusWord s = (s.wvalid.setWidth 32 <<< 16) ||| (s.t.setWidth 32 <<< 8) ||| (s.errcode.setWidth 32 <<< 4)
      ||| ((if s.err then 1#32 else 0#32) <<< 2) ||| ((if s.done then 1#32 else 0#32) <<< 1)
      ||| (if s.busy then 1#32 else 0#32) := by
  apply BitVec.eq_of_getLsbD_eq
  intro i hi
  simp only [statusWord, BitVec.getLsbD_append, BitVec.getLsbD_or, BitVec.getLsbD_shiftLeft, BitVec.getLsbD_setWidth,
    getLsbD_flag, BitVec.getLsbD_ofBool, Nat.sub_sub]
  obtain h | h | h | h | h | h | h | h | h : i = 0 ∨ i = 1 ∨ i = 2 ∨ i = 3 ∨ 4 ≤ i ∧ i < 7 ∨ i = 7 ∨
    8 ≤ i ∧ i < 15 ∨ i = 15 ∨ 16 ≤ i := by omega
  all_goals simp (disch := omega) [if_pos, if_neg, decide_eq_true, decide_eq_false, BitVec.getLsbD_of_ge]

/-- Two steps are a run of two. -/
theorem run_two {s s1 s2 : State} (first : step s = .next s1) (second : step s1 = .next s2) : run 2 s = .next s2 :=
  (run_step first).trans (run_one second)

/-- A write that completes, then a read of a register that now has a value: the read answers it. -/
theorem run_write_read {s s' : State} {t : Txn} {reg : WindowReg} {rest : List Event} {i : Instr} {v : Word}
    (hp : s.pending = .host t :: .host (rdReg reg) :: rest) (hd : decodeTxn t.record t.size = .ok i)
    (hw : exec i { s with pending := .host (rdReg reg) :: rest } = .next s')
    (hp' : s'.pending = .host (rdReg reg) :: rest) (hv : memRead reg { s' with pending := rest } = some v) :
    ∃ s'', run 2 s = .next s'' ∧ s''.response = .value v := by
  have first : step s = .next s' := (step_host hp hd).trans hw
  have second := (step_host hp' (decodeTxn_rdReg reg)).trans (exec_read hv)
  exact ⟨_, run_two first second, rfl⟩

/-- IRQEN reads the two lowest bits of the word written to it (R123). -/
theorem irqenWord_writeIrqen (v : Word) (s : State) : irqenWord (writeIrqen v s) = v &&& 3#32 := by
  have mask : ∀ i < 32, (3#32).getLsbD i = decide (i < 2) := by decide
  apply BitVec.eq_of_getLsbD_eq
  intro i hi
  rw [irqenWord_eq_bits, BitVec.getLsbD_and, mask i hi]
  simp only [BitVec.getLsbD_or, BitVec.getLsbD_shiftLeft, getLsbD_flag]
  obtain rfl | rfl | h : i = 0 ∨ i = 1 ∨ 2 ≤ i := by omega
  · simp
  · simp
  · simp (disch := omega) [decide_eq_false]

end Sys2Proof.Machine

namespace Sys2Proof
open Machine

/-- Settles O1: each word is taken apart by the decoder, and all are closed terms. -/
theorem decodeSpecWords : Obligations.DecodeSpecWords := by
  unfold Obligations.DecodeSpecWords
  decide

/-- Settles O6: a record that decodes is run; a read with DATA is rejected before its size and offset are looked at. -/
theorem stepRunsHostTransaction : Obligations.StepRunsHostTransaction := by
  refine fun s t rest hp => ⟨fun i hd => step_host hp hd, fun hdir hdata => ?_⟩
  have hill : wellFormedRecord t.record = false := by simpa [wellFormedRecord, hdir, dataFits] using hdata
  simp [step, fetch, fetchTxn, decodeTxn, hp, hill]

/-- Settles O9: the step is `resetStep`, whose fields are those of `State.reset` but for the three it keeps. -/
theorem resetStepSetsEveryRegister : Obligations.ResetStepSetsEveryRegister := by
  intro s rest hp
  exact ⟨resetStep { s with pending := rest }, by simp [step, fetch, hp], rfl,
    fun j => Vector.getElem_replicate j.isLt, fun j => Vector.getElem_replicate j.isLt,
    rfl, rfl, rfl, rfl, rfl, rfl, rfl, rfl, rfl, rfl, rfl, rfl, rfl⟩

/-- Settles O10: the fields of `State.reset`. -/
theorem resetLeavesSpecValues : Obligations.ResetLeavesSpecValues :=
  ⟨rfl, rfl, reset_m_getElem, rfl, fun j => Vector.getElem_replicate j.isLt,
    rfl, rfl, rfl, rfl, rfl, rfl, rfl, rfl, rfl⟩

/-- Settles O14: the value is `statusWord`, here as its shifts. -/
theorem statusRead : Obligations.StatusRead := by
  intro s
  rw [exec_rdStatus, statusWord_eq_shifts]
  rfl

/-- Settles O16: the meaning of each read. -/
theorem registerFileReads : Obligations.RegisterFileReads :=
  fun s => ⟨exec_rdH0 s, exec_rdH1 s, exec_rdH2 s, exec_rdH3 s, exec_rdH4 s, fun j => exec_rdM j s⟩

/-- Settles O18: the read answers `registerAnswer`, which is the map's value where there is one. -/
theorem readsReturnTheRegister : Obligations.ReadsReturnTheRegister := by
  intro s reg rest hp
  have answered : step s = .next { s with pending := rest, response := registerAnswer reg s } := by
    have frame := registerAnswer_frame reg s rest s.response
    rw [step_host hp (decodeTxn_rdReg reg), exec_read_registerAnswer, frame]
  refine ⟨fun v hv => ?_, fun hnone => ?_⟩
  · rw [answered, registerAnswer, hv]
  · rw [answered, registerAnswer, hnone]

/-- Settles O21: the accepted case of START. -/
theorem startBeginsBlock : Obligations.StartBeginsBlock :=
  exec_start_accepted

/-- Settles O23: the meaning of ABORT, which its command word performs. -/
theorem abortStopsTheBlock : Obligations.AbortStopsTheBlock :=
  ⟨by decide, by decide, fun s => ⟨exec_abort s, exec_wrCtrl_abort s⟩⟩

/-- Settles O31: the seven offsets are the reserved registers. -/
theorem reservedAccesses : Obligations.ReservedAccesses :=
  fun dir data s => ⟨exec_rsvdInstr 0 dir data s, exec_rsvdInstr 1 dir data s, exec_rsvdInstr 2 dir data s,
    exec_rsvdInstr 3 dir data s, exec_rsvdInstr 4 dir data s, exec_rsvdInstr 5 dir data s, exec_rsvdInstr 6 dir data s⟩

/-- Settles O33: each write completes, and the read finds the register it wrote. -/
theorem writeThenReadReturnsIt : Obligations.WriteThenReadReturnsIt := by
  refine fun s v rest => ⟨fun j hp => ?_, fun i hb hp => ?_, fun hp => ?_⟩
  · refine run_write_read hp (decodeTxn_wrReg _ v) (exec_wrM j v _) rfl ?_
    exact congrArg some (Vector.getElem_set_self j.isLt)
  · refine run_write_read hp (decodeTxn_wrReg _ v) (exec_write_h i v _) (by simp) ?_
    simp [memRead, writeH, hb]
  · refine run_write_read hp (decodeTxn_wrReg _ v) (exec_wrIrqen v _) rfl ?_
    exact congrArg some (irqenWord_writeIrqen v s)

end Sys2Proof
end

/-! PROOFS. The rotation (R9), the schedule (R150) and its window (R151 to R154). -/

section
namespace Sys2Proof.Machine

/-- A rotation to the left moves bit `i` to bit `(i + n) mod 32` (R9). -/
theorem getLsbD_rotl32 (x : Word) {n i : Nat} (hn : 0 < n ∧ n < 32) (hi : i < 32) :
    (rotl32 x n hn).getLsbD ((i + n) % 32) = x.getLsbD i := by
  rw [rotl32_eq_rotateLeft, BitVec.getLsbD_rotateLeft, Nat.mod_eq_of_lt hn.2]
  by_cases hwrap : i + n < 32
  · simp [Nat.mod_eq_of_lt hwrap, hwrap]
  · have hmod : (i + n) % 32 = i + n - 32 := by omega
    simp [hmod, show i + n - 32 < n by omega, show 32 - n + (i + n - 32) = i by omega]

end Sys2Proof.Machine
namespace Sys2Proof
open Machine

/-- Settles O35: the shifts are the definition, the bits those of the rotation. -/
theorem rotationKeepsEveryBit : Obligations.RotationKeepsEveryBit :=
  fun x _ hn => ⟨rfl, fun _ hi => getLsbD_rotl32 x hn hi⟩

end Sys2Proof
end

/-! PROOFS. The schedule (R150), its window (R151 to R154), and the micro-operations (R178 to R186, R204). -/

section
namespace Sys2Proof.Machine

/-! ### The schedule -/

/-- Before round 16 the schedule is the block (R150). -/
theorem schedule_of_lt (m : Vector Word 16) {t : Nat} (ht : t < 16) : schedule m t = m[t] := by
  simp [schedule, nextScheduleWord, ht]

/-- From round 16 on it is the recurrence (R150). -/
theorem schedule_of_ge (m : Vector Word 16) {t : Nat} (ht : 16 ≤ t) :
    schedule m t =
      rotl32 (schedule m (t - 3) ^^^ schedule m (t - 8) ^^^ schedule m (t - 14) ^^^ schedule m (t - 16)) 1 := by
  have word (k : Nat) (hk : k < t) := schedulePrefix_getD m t k hk
  rw [schedule, nextScheduleWord]
  simp only [schedulePrefix_length, Nat.not_lt.mpr ht, dite_false]
  rw [word (t - 3) (by omega), word (t - 8) (by omega), word (t - 14) (by omega), word (t - 16) (by omega)]

/-! ### The window -/

/-- Loaded from M the window holds the block (R151, R153). -/
theorem windowHolds_zero (m : Vector Word 16) : windowHolds m 0 m :=
  ⟨fun _ _ => rfl, fun h => absurd h (by decide)⟩

/-- A window that holds the schedule words before round `t` has S[n] in its slot, for the sixteen `n` before `t`. -/
theorem windowHolds_tap {m w : Vector Word 16} {t : BitVec 7} (hw : windowHolds m t.toNat w) (ht : 16 ≤ t.toNat)
    {k n : Nat} (hlo : t.toNat - 16 ≤ n) (hn : n < t.toNat) (hslot : (t.toNat + k) % 16 = n % 16) :
    w[tapSlot t k] = schedule m n :=
  hw.2 ht n hlo hn _ hslot

/-- The expander forms S[t] from round 16 on (R154). -/
theorem expandWord_eq_schedule {m w : Vector Word 16} {t : BitVec 7} (hw : windowHolds m t.toNat w)
    (ht : 16 ≤ t.toNat) : expandWord t w = schedule m t.toNat := by
  rw [expandWord, schedule_of_ge m ht, windowHolds_tap hw ht (n := t.toNat - 3),
    windowHolds_tap hw ht (n := t.toNat - 8), windowHolds_tap hw ht (n := t.toNat - 14),
    windowHolds_tap hw ht (n := t.toNat - 16)] <;> omega

/-- In every round the word the window gives is S[t] (R154). -/
theorem schedWord_eq_schedule {m w : Vector Word 16} {t : BitVec 7} (hw : windowHolds m t.toNat w) :
    schedWord (decide (16 ≤ t.toNat)) t w = schedule m t.toNat := by
  by_cases ht : 16 ≤ t.toNat
  · simp [ht, expandWord_eq_schedule hw]
  · have hlt : t.toNat < 16 := Nat.lt_of_not_le ht
    rw [decide_eq_false ht, schedWord_keep, hw.1 hlt, schedule_of_lt m hlt]
    simp [Nat.mod_eq_of_lt hlt]

/-- After the expander's part of round `t` the window holds the schedule words before round `t + 1` (R153). -/
theorem windowHolds_succ {m w : Vector Word 16} {t : BitVec 7} (hw : windowHolds m t.toNat w) :
    windowHolds m (t.toNat + 1) (schedWindow (decide (16 ≤ t.toNat)) t w) := by
  by_cases ht : 16 ≤ t.toNat
  · refine ⟨fun h => by omega, fun _ n hlo hn j hj => ?_⟩
    rw [decide_eq_true ht, schedWindow_expand, expandWord_eq_schedule hw ht]
    obtain rfl | hlt := Nat.eq_or_lt_of_le (Nat.lt_succ_iff.mp hn)
    · obtain rfl : j = tapSlot t 0 := Fin.ext hj
      exact Vector.getElem_set_self _
    · have hne : (tapSlot t 0).val ≠ j.val := by simp; omega
      exact (Vector.getElem_set_ne (tapSlot t 0).isLt j.isLt hne).trans (hw.2 ht n (by omega) hlt j hj)
  · rw [decide_eq_false ht, schedWindow_keep]
    refine ⟨fun _ => hw.1 (by omega), fun h n hlo hn j hj => ?_⟩
    have hn16 : n < 16 := by omega
    rw [hw.1 (by omega) j, schedule_of_lt m hn16]
    simp [hj, Nat.mod_eq_of_lt hn16]

/-! ### The rounds -/

/-- The expanded word by its four slots, the rotation in the library's terms (R152). -/
theorem expandWord_eq_rotateLeft (t : BitVec 7) (w : Vector Word 16) :
    expandWord t w = (w[(t.toNat + 13) % 16] ^^^ w[(t.toNat + 8) % 16] ^^^ w[(t.toNat + 2) % 16]
      ^^^ w[t.toNat % 16]).rotateLeft 1 :=
  rotl32_eq_rotateLeft _ 1 (by decide)

/-- The update of A..E, the rotations in the library's terms (R178, R180). -/
theorem roundWork_eq_rotateLeft (f : BoolFn) (k wt : Word) (q : Work) :
    roundWork f k wt q =
      ⟨q.a.rotateLeft 5 + boolFn f q.b q.c q.d + q.e + k + wt, q.a, q.b.rotateLeft 30, q.c, q.d⟩ := by
  rw [roundWork, roundSum, rotl32_eq_rotateLeft, rotl32_eq_rotateLeft]

/-- A round where it is enabled. -/
theorem whenPhase_round {s : State} (hb : s.busy = true) (ht : s.t.toNat < 80) (effect : State → State) :
    whenPhase .round effect s = .next (effect s) :=
  whenPhase_enabled effect (phase_eq_round.mpr ⟨hb, ht⟩)

/-- A round with expansion where it is enabled, its next state written out (R183 to R186). -/
theorem whenPhase_roundStep_expand {s : State} (hb : s.busy = true) (ht : s.t.toNat < 80) (k : BitVec 2) (f : BoolFn) :
    whenPhase .round (roundStep true k f) s = .next { s with
      w := s.w.set (s.t.toNat % 16) (expandWord s.t s.w)
      work := ⟨s.work.a.rotateLeft 5 + boolFn f s.work.b s.work.c s.work.d + s.work.e + ktab k + expandWord s.t s.w,
        s.work.a, s.work.b.rotateLeft 30, s.work.c, s.work.d⟩
      t := s.t + 1 } := by
  rw [whenPhase_round hb ht, roundStep, roundWork_eq_rotateLeft, schedWord_expand]
  rfl

/-- The phase with T out of range (R23). -/
theorem phase_eq_unreachable {s : State} : s.phase = .unreachable ↔ s.busy = true ∧ 80 < s.t.toNat := by
  unfold State.phase
  cases s.busy
  · simp
  · by_cases hlt : s.t.toNat < 80
    · simp [hlt, hlt.le]
    · by_cases heq : s.t.toNat = 80
      · simp [heq]
      · simp [hlt, heq]
        omega

/-- A micro-operation in a phase that is not its own is refused (log entry 10). -/
theorem whenPhase_refused {p q : Phase} (effect : State → State) {s : State} (hq : s.phase = q) (hp : q ≠ p)
    (hu : q ≠ .unreachable) : whenPhase p effect s = .refused .engineNotEnabled := by
  simp [whenPhase, hq, hp, hu]

/-- Idle or with T = 80 the phase is IDLE or FINAL. -/
theorem phase_of_no_round {s : State} (hoff : s.busy = false ∨ s.t.toNat = 80) :
    s.phase = .idle ∨ s.phase = .final := by
  cases hb : s.busy with
  | false => exact .inl (phase_eq_idle.mpr hb)
  | true => exact .inr (phase_eq_final.mpr ⟨hb, by simpa [hb] using hoff⟩)

/-- Idle or with T below 80 the phase is IDLE or ROUND. -/
theorem phase_of_no_final {s : State} (hoff : s.busy = false ∨ s.t.toNat < 80) :
    s.phase = .idle ∨ s.phase = .round := by
  cases hb : s.busy with
  | false => exact .inl (phase_eq_idle.mpr hb)
  | true => exact .inr (phase_eq_round.mpr ⟨hb, by simpa [hb] using hoff⟩)

/-- A micro-operation with T out of range while busy faults (R23). -/
theorem whenPhase_fault {p : Phase} (effect : State → State) {s : State} (hp : p ≠ .unreachable)
    (hu : s.phase = .unreachable) : whenPhase p effect s = .fault .roundCounterOutOfRange := by
  simp [whenPhase, hu, hp.symm]

/-- Each round is `whenPhase .round` of some effect. -/
theorem exec_roundOp {i : Instr} (hi : i ∈ roundOps) (s : State) :
    ∃ x k f, exec i s = whenPhase .round (roundStep x k f) s := by
  simp only [roundOps, List.mem_cons, List.not_mem_nil, or_false] at hi
  rcases hi with rfl | rfl | rfl | rfl | rfl <;> exact ⟨_, _, _, rfl⟩

end Sys2Proof.Machine

namespace Sys2Proof
open Machine

/-- Settles O36: the two branches of the recurrence. -/
theorem scheduleFollowsRecurrence : Obligations.ScheduleFollowsRecurrence :=
  fun m => ⟨fun t => schedule_of_lt m t.isLt,
    fun _ ht _ => (schedule_of_ge m ht).trans (rotl32_eq_rotateLeft _ 1 (by decide))⟩

/-- Settles O37: the window before and after a round, and the word taken from it. -/
theorem expanderYieldsSchedule : Obligations.ExpanderYieldsSchedule :=
  fun m => ⟨windowHolds_zero m, fun _ _ _ hw => ⟨schedWord_eq_schedule hw, windowHolds_succ hw⟩⟩

/-- Settles O38: the round step without expansion, its rotations in the library's terms. -/
theorem roundWithoutExpansion : Obligations.RoundWithoutExpansion := by
  intro s hb ht
  rw [exec_rndSelK0, whenPhase_round hb ht, roundStep, roundWork_eq_rotateLeft]
  rfl

/-- Settles O39: one round step with expansion, at the function and the constant of each row. -/
theorem roundsWithExpansion : Obligations.RoundsWithExpansion := by
  intro s hb ht
  have expanded (k : BitVec 2) (f : BoolFn) := whenPhase_roundStep_expand hb ht k f
  simp only [expandWord_eq_rotateLeft] at expanded
  exact ⟨expanded 0 .sel, expanded 1 .xor, expanded 2 .maj, expanded 3 .xor⟩

/-- Settles O41: the condition on BUSY and T tells the phase. -/
theorem microOpsOnlyWhenEnabled : Obligations.MicroOpsOnlyWhenEnabled := by
  intro s
  have fault {p : Phase} (effect : State → State) (hp : p ≠ .unreachable) (hb : s.busy = true) (ht : 80 < s.t.toNat) :=
    whenPhase_fault effect hp (phase_eq_unreachable.mpr ⟨hb, ht⟩)
  refine ⟨fun i hi => ?_, fun hoff => ?_, fault finalize (by decide)⟩
  · obtain ⟨x, k, f, he⟩ := exec_roundOp hi s
    rw [he]
    refine ⟨fun hoff => ?_, fault _ (by decide)⟩
    obtain h | h := phase_of_no_round hoff <;> exact whenPhase_refused _ h (by decide) (by decide)
  · obtain h | h := phase_of_no_final hoff <;> exact whenPhase_refused _ h (by decide) (by decide)

/-- Settles O42: with T = 80 the finalize step is enabled, and it leaves BUSY at 0. -/
theorem finalizeAddsIntoH : Obligations.FinalizeAddsIntoH := by
  intro s hb ht
  have finished : exec .fin s = .next (finalize s) :=
    whenPhase_enabled finalize (phase_eq_final.mpr ⟨hb, congrArg BitVec.toNat ht⟩)
  refine ⟨finished, fun s' hs' => ?_⟩
  cases finished.symm.trans hs'
  exact ⟨ht, phase_eq_idle.mpr rfl⟩

end Sys2Proof
end

/-! PROOFS. The engine's turn by its phase (R23), and the steps that go on (R240). -/

section
namespace Sys2Proof.Machine

/-- The engine's turn is what a step fetches then. -/
theorem fetch_engineTurn {s s0 : State} (h : s.engineTurn s0) : fetch s = fetchMicroOp s0 := by
  obtain ⟨hp, rfl⟩ | ⟨rest, hp, rfl⟩ := h <;> simp [fetch, hp]

/-- The engine's turn starts from a state that differs in the pending events alone. -/
theorem engineTurn_eq {s s0 : State} (h : s.engineTurn s0) : s0 = { s with pending := s0.pending } := by
  obtain ⟨-, rfl⟩ | ⟨rest, -, rfl⟩ := h <;> rfl

/-- The phase does not depend on the pending events. -/
theorem phase_engineTurn {s s0 : State} (h : s.engineTurn s0) : s0.phase = s.phase := by
  rw [engineTurn_eq h]
  rfl

/-- Idle, the engine's turn changes nothing. -/
theorem step_engineTurn_idle {s s0 : State} (h : s.engineTurn s0) (hb : s.busy = false) : step s = .next s0 := by
  have hp : s0.phase = .idle := (phase_engineTurn h).trans (phase_eq_idle.mpr hb)
  simp [step, fetch_engineTurn h, fetchMicroOp, hp]

/-- With T = 80 the engine's turn is FIN. -/
theorem step_engineTurn_fin {s s0 : State} (h : s.engineTurn s0) (hb : s.busy = true) (ht : s.t.toNat = 80) :
    step s = exec .fin s0 := by
  have hp : s0.phase = .final := (phase_engineTurn h).trans (phase_eq_final.mpr ⟨hb, ht⟩)
  have ht0 : s0.t = 80#7 := by
    rw [engineTurn_eq h]
    exact BitVec.eq_of_toNat_eq ht
  simp [step, fetch_engineTurn h, fetchMicroOp, hp, decodeStep, ht0]

/-- With T = 80 the engine's turn is the finalize step. -/
theorem step_engineTurn_final {s s0 : State} (h : s.engineTurn s0) (hb : s.busy = true) (ht : s.t.toNat = 80) :
    step s = .next (finalize s0) := by
  have hp : s0.phase = .final := (phase_engineTurn h).trans (phase_eq_final.mpr ⟨hb, ht⟩)
  rw [step_engineTurn_fin h hb ht, exec_fin, whenPhase_enabled finalize hp]

/-- With T out of range while busy the engine's turn faults. -/
theorem step_engineTurn_fault {s s0 : State} (h : s.engineTurn s0) (hb : s.busy = true) (ht : 80 < s.t.toNat) :
    step s = .fault .roundCounterOutOfRange := by
  have hp : s0.phase = .unreachable := (phase_engineTurn h).trans (phase_eq_unreachable.mpr ⟨hb, ht⟩)
  simp [step, fetch_engineTurn h, fetchMicroOp, hp]

/-- While T is in the ROM, the ROM word of an engine's turn is ROM[T]. -/
theorem romWord_engineTurn {s s0 : State} (h : s.engineTurn s0) (inRom : s.t.toNat < 80) :
    romWord s0 = s.rom[s.t.toNat] := by
  rw [engineTurn_eq h]
  exact dif_pos inRom

/-- In phase ROUND with a legal ROM the engine's turn is the round that ROM[T] names. -/
theorem step_engineTurn_rom {s s0 : State} (h : s.engineTurn s0) (hb : s.busy = true) (inRom : s.t.toNat < 80)
    (hlegal : romLegal s.rom = true) {i : Instr} (hd : decodeRom s.rom[s.t.toNat] = .ok i) :
    step s = exec i s0 := by
  have hp : s0.phase = .round := (phase_engineTurn h).trans (phase_eq_round.mpr ⟨hb, inRom⟩)
  have hrom : s0.rom = s.rom := by rw [engineTurn_eq h]
  have hf := fetchMicroOp_round hp (hrom ▸ hlegal) ((romWord_engineTurn h inRom).symm ▸ hd)
  simp [step, fetch_engineTurn h, hf]

/-- In phase ROUND with a reserved word anywhere in the ROM the engine's turn is refused (R91). -/
theorem step_engineTurn_reserved {s s0 : State} (h : s.engineTurn s0) (hb : s.busy = true) (inRom : s.t.toNat < 80)
    (hlegal : romLegal s.rom = false) : step s = .refused .reservedRomWord := by
  have hp : s0.phase = .round := (phase_engineTurn h).trans (phase_eq_round.mpr ⟨hb, inRom⟩)
  have hrom : s0.rom = s.rom := by rw [engineTurn_eq h]
  simp [step, fetch_engineTurn h, fetchMicroOp_reserved hp (hrom ▸ hlegal)]

/-- A legal ROM word names a round: the round step with its function, constant and expansion (R87 to R90). -/
theorem decodeRom_roundStep {w : BitVec 8} (hw : w ∈ [0x00#8, 0x10#8, 0x15#8, 0x1A#8, 0x1D#8]) :
    ∃ i f, decodeRom w = .ok i ∧ romFsel w = some f ∧
      ∀ s, exec i s = whenPhase .round (roundStep (romExp w) (romKsel w) f) s := by
  simp only [List.mem_cons, List.not_mem_nil, or_false] at hw
  rcases hw with rfl | rfl | rfl | rfl | rfl <;> exact ⟨_, _, rfl, rfl, fun _ => rfl⟩

/-- In phase ROUND with a legal ROM the engine's turn is the round step that the fields of ROM[T] select (R181). -/
theorem step_engineTurn_round {s s0 : State} (h : s.engineTurn s0) (hb : s.busy = true) (inRom : s.t.toNat < 80)
    (hlegal : romLegal s.rom = true) :
    ∃ f, romFsel s.rom[s.t.toNat] = some f ∧
      step s = .next (roundStep (romExp s.rom[s.t.toNat]) (romKsel s.rom[s.t.toNat]) f s0) := by
  have hp : s0.phase = .round := (phase_engineTurn h).trans (phase_eq_round.mpr ⟨hb, inRom⟩)
  obtain ⟨i, f, hd, hf, he⟩ := decodeRom_roundStep ((romLegal_iff s.rom).mp hlegal ⟨s.t.toNat, inRom⟩)
  refine ⟨f, hf, ?_⟩
  rw [step_engineTurn_rom h hb inRom hlegal hd, he]
  exact whenPhase_enabled _ hp

/-- A ROM word with FSEL = 3 or a reserved bit is none of the five of R88. -/
theorem romWord_reserved : ∀ w : BitVec 8,
    (w.extractLsb' 0 2 = 3#2 ∨ w.extractLsb' 5 3 ≠ 0#3 ∨ w ∉ [0x00#8, 0x10#8, 0x15#8, 0x1A#8, 0x1D#8]) →
    w ∉ [0x00#8, 0x10#8, 0x15#8, 0x1A#8, 0x1D#8] := by
  decide

/-- A reserved word anywhere makes the ROM illegal (R91). -/
theorem romLegal_eq_false {rom : Vector (BitVec 8) 80} (t : Fin 80)
    (ht : rom[t] ∉ [0x00#8, 0x10#8, 0x15#8, 0x1A#8, 0x1D#8]) : romLegal rom = false := by
  rw [← Bool.not_eq_true, romLegal_iff]
  exact fun hall => ht (hall t)

/-- The engine's turn goes on where the ROM is legal and T is in range while busy. -/
theorem step_engineTurn_goes_on {s s0 : State} (h : s.engineTurn s0) (hlegal : romLegal s.rom = true)
    (ht : s.t.toNat ≤ 80) : ∃ s', step s = .next s' := by
  cases hb : s.busy with
  | false => exact ⟨_, step_engineTurn_idle h hb⟩
  | true =>
    obtain hlt | heq := Nat.lt_or_eq_of_le ht
    · obtain ⟨f, -, hs⟩ := step_engineTurn_round h hb hlt hlegal
      exact ⟨_, hs⟩
    · exact ⟨_, step_engineTurn_final h hb heq⟩

/-- A well-formed host transaction always goes on (R240). -/
theorem step_host_goes_on {s : State} {t : Txn} {rest : List Event} (hp : s.pending = .host t :: rest)
    (hw : wellFormedRecord t.record = true) : ∃ s', step s = .next s' := by
  obtain ⟨s', h, -⟩ := busErrorsExactlyFourCauses s t rest hp hw
  exact ⟨s', h⟩

/-- A step on a legal event goes on where the ROM is legal and T is in range. -/
theorem step_goes_on {s : State} (hlegal : romLegal s.rom = true) (ht : s.t.toNat ≤ 80)
    (he : ∀ e ∈ s.pending.head?, e.legal = true) : ∃ s', step s = .next s' := by
  cases hp : s.pending with
  | nil => exact step_engineTurn_goes_on (.inl ⟨hp, rfl⟩) hlegal ht
  | cons e rest =>
    cases e with
    | engine => exact step_engineTurn_goes_on (.inr ⟨rest, hp, rfl⟩) hlegal ht
    | reset => exact ⟨resetStep { s with pending := rest }, by simp [step, fetch, hp]⟩
    | host t =>
      have hw : Event.legal (.host t) = true := he _ (by simp [hp])
      exact step_host_goes_on hp hw

end Sys2Proof.Machine

namespace Sys2Proof
open Machine

/-- Settles O7: the turn of each phase. -/
theorem engineTurnFollowsPhase : Obligations.EngineTurnFollowsPhase :=
  fun _ _ h => ⟨step_engineTurn_idle h,
    fun hb hrom inRom _ hd => step_engineTurn_rom h hb inRom ((romLegal_iff _).mpr hrom) hd,
    step_engineTurn_fin h, step_engineTurn_fault h⟩

/-- Settles O8: a reserved word makes the whole ROM illegal, the table's words are legal, and no step writes the ROM. -/
theorem reservedRomWordIsRefused : Obligations.ReservedRomWordIsRefused :=
  ⟨fun _ _ h hb inRom t ht => step_engineTurn_reserved h hb inRom (romLegal_eq_false t (romWord_reserved _ ht)),
    (romLegal_iff romTable).mp romLegal_romTable, fun _ _ => step_rom⟩

/-- Settles O40: the round step of ROM[T]; idle nothing changes, and the finalize step keeps W, A..E and T. -/
theorem roundStepFollowsRomWord : Obligations.RoundStepFollowsRomWord := by
  refine ⟨fun s s0 h hb inRom hrom => ?_, fun s s0 h hoff => ?_⟩
  · obtain ⟨f, hf, hs⟩ := step_engineTurn_round h hb inRom ((romLegal_iff _).mpr hrom)
    refine ⟨f, hf, hs.trans ?_⟩
    rw [roundStep, roundWork_eq_rotateLeft, engineTurn_eq h]
    rfl
  · have kept : s0.work = s.work ∧ s0.w = s.w ∧ s0.t = s.t := by
      rw [engineTurn_eq h]
      exact ⟨rfl, rfl, rfl⟩
    cases hb : s.busy with
    | false => exact ⟨s0, step_engineTurn_idle h hb, kept⟩
    | true =>
      have ht : s.t = 80#7 := by simpa [hb] using hoff
      exact ⟨finalize s0, step_engineTurn_final h hb (congrArg BitVec.toNat ht), kept⟩

/-- Settles O46: the invariant gives a legal ROM and T in range. -/
theorem legalStepGoesOn : Obligations.LegalStepGoesOn := by
  intro s hi he
  obtain ⟨hrange, -, -, -, hrom⟩ := hi
  exact step_goes_on (hrom ▸ romLegal_romTable) hrange he

end Sys2Proof
end

/-! PROOFS. Interleavings: the idle engine (R71) and the races with the finalize step (R251). -/

section
namespace Sys2Proof.Machine

/-- What a step on a host transaction runs is what the transaction asks for. -/
theorem runs_host {s : State} {t : Txn} {rest : List Event} (hp : s.pending = .host t :: rest) :
    s.runs = Event.asks (.host t) := by
  rw [State.runs, Event.asks, fetch, hp]
  simp only [fetchTxn]
  cases decodeTxn t.record t.size with
  | ok i => rfl
  | reject r => cases r <;> rfl

/-- A command a step runs is asked for by the event at the head. -/
theorem asks_of_runs_wrCtrl {s : State} {e : Event} {rest : List Event} {w : Word} (hp : s.pending = e :: rest)
    (ran : s.runs = some (.wrCtrl w)) : e.asks = some (.wrCtrl w) := by
  cases hf : fetch s with
  | run i s0 =>
    obtain rfl : i = .wrCtrl w := by simpa [runs_of_fetch hf] using ran
    rcases fetch_source hf with ⟨hi, -⟩ | ⟨hi, -⟩ | ⟨t, rest', hp', hd⟩
    · simp [roundOps] at hi
    · cases hi
    · cases hp.symm.trans hp'
      simp [Event.asks, hd, Decoded.instr?]
  | settled | broken | refuse => simp [State.runs, hf] at ran

/-- An idle engine stays idle and H is kept, unless the event at the head is a reset, INIT, a START that finds all of M
written, or a write to H. -/
theorem step_idle_keeps_h {s s' : State} {e : Event} {rest : List Event} (h : step s = .next s') (hb : s.busy = false)
    (hp : s.pending = e :: rest) (hreset : e ≠ .reset) (hwrite : ¬e.writesH) (hinit : e.asks ≠ some (.wrCtrl 0x1#32))
    (hstart : e.asks = some (.wrCtrl 0x2#32) → s.wvalid ≠ 0xFFFF#16) : s'.h = s.h ∧ s'.busy = false := by
  cases stepEffect_of_step h with
  | answers | refuses | clears | writesIrqen | writesM => exact ⟨rfl, hb⟩
  | aborts => exact ⟨rfl, rfl⟩
  | resets hr => simp [State.resets, hp, hreset] at hr
  | inits ran => exact absurd (asks_of_runs_wrCtrl hp ran) hinit
  | starts ran _ hv => exact absurd hv (hstart (asks_of_runs_wrCtrl hp ran))
  | writesH _ _ asked => simp [hp, hwrite] at asked
  | rounds _ _ _ _ hb' | finalizes _ hb' => exact absurd (hb.symm.trans hb') Bool.false_ne_true

/-- The engine's turn at the head of the pending events with T = 80. -/
theorem step_fin {s : State} {rest : List Event} (hp : s.pending = .engine :: rest) (hb : s.busy = true)
    (ht : s.t = 80#7) : step s = .next (finalize { s with pending := rest }) :=
  step_engineTurn_final (.inr ⟨rest, hp, rfl⟩) hb (congrArg BitVec.toNat ht)

/-- A step of an idle engine on a legal event goes on, whatever the ROM holds. -/
theorem step_idle_goes_on {s : State} {e : Event} {rest : List Event} (hb : s.busy = false) (hp : s.pending = e :: rest)
    (hlegal : e.legal = true) : ∃ s', step s = .next s' := by
  cases e with
  | engine => exact ⟨_, step_engineTurn_idle (.inr ⟨rest, hp, rfl⟩) hb⟩
  | reset => exact ⟨resetStep { s with pending := rest }, by simp [step, fetch, hp]⟩
  | host t => exact step_host_goes_on hp hlegal

end Sys2Proof.Machine

namespace Sys2Proof
open Machine

/-- Settles O53, by induction on the events. -/
theorem idleKeepsDigest : Obligations.IdleKeepsDigest := by
  intro s evs
  induction evs generalizing s with
  | nil => exact fun rest hb hp _ _ => ⟨s, rfl, rfl, hb, hp⟩
  | cons e es ih =>
    intro rest hb hp hall hstart
    obtain ⟨⟨hreset, hlegal, hwrite, hinit⟩, hes⟩ := List.forall_mem_cons.mp hall
    obtain ⟨s1, h1⟩ := step_idle_goes_on hb hp hlegal
    obtain ⟨hh, hb1⟩ := step_idle_keeps_h h1 hb hp hreset hwrite hinit
      fun ha => hstart ⟨0, Nat.succ_pos _⟩ ha s rfl
    have hp1 : s1.pending = es ++ rest := by rw [step_pending h1, hp]; rfl
    have hstart1 (k : Fin es.length) (ha : es[k].asks = some (.wrCtrl 0x2#32)) (before : State)
        (hr : run k.val s1 = .next before) : before.wvalid ≠ 0xFFFF#16 :=
      hstart k.succ ha before ((run_step h1).trans hr)
    obtain ⟨s', hr, hh', hb', hp'⟩ := ih s1 rest hb1 hp1 hes hstart1
    exact ⟨s', (run_step h1).trans hr, hh'.trans hh, hb', hp'⟩

/-- Settles O55: in each order the outcome of the first step decides what the second finds. -/
theorem racesAdmitBothOrders : Obligations.RacesAdmitBothOrders := by
  intro s rest hb ht abort start read h'
  have finFirst {e : Event} (hp : s.pending = .engine :: e :: rest) := step_fin hp hb ht
  have hostFirst {t : Txn} (hp : s.pending = .host t :: .engine :: rest) {i : Instr} := step_host (i := i) hp
  refine ⟨fun hp => ?_, fun hp => ?_, fun hp hv => ?_, fun hp he => ?_, fun hp => ?_, fun hp => ?_⟩
  · have aborted := step_host (s := finalize { s with pending := abort :: rest }) rfl (decodeTxn_wrReg .ctrl 0x3#32)
    exact ⟨_, run_two (finFirst hp) aborted, rfl, rfl, rfl, rfl⟩
  · have aborted := hostFirst hp (decodeTxn_wrReg .ctrl 0x3#32)
    exact ⟨_, run_two aborted (step_engineTurn_idle (.inr ⟨rest, rfl, rfl⟩) rfl), rfl, rfl, rfl, rfl⟩
  · have started := step_host (s := finalize { s with pending := start :: rest }) rfl (decodeTxn_wrReg .ctrl 0x2#32)
    have accepted := exec_start_accepted (finalize { s with pending := rest }) rfl hv
    exact ⟨_, run_two (finFirst hp) (started.trans accepted), rfl, rfl, rfl, rfl⟩
  · have started := hostFirst hp (decodeTxn_wrReg .ctrl 0x2#32)
    obtain ⟨-, refused, -⟩ := startRefusals { s with pending := .engine :: rest }
    exact ⟨_, run_two (started.trans (refused hb he)) (step_fin rfl hb ht), rfl, rfl, rfl, rfl⟩
  · have answered := step_host (s := finalize { s with pending := read :: rest }) rfl (decodeTxn_rdReg (.h 0))
    exact ⟨_, run_two (finFirst hp) answered, rfl⟩
  · have answered := hostFirst hp (decodeTxn_rdReg (.h 0))
    exact ⟨_, run_two answered (step_fin rfl hb ht), rfl, rfl⟩

end Sys2Proof
end

/-! PROOFS. A block under way: each turn of the engine is a round of the document, the 81st the finalize step, and
no other access disturbs it (R131, R205, R283). -/

section
namespace Sys2Proof.Machine

/-! ### The engine's turn as a function -/

/-- The engine's turn where it goes on: nothing, the round of ROM[T], or the finalize step (R23). -/
def engineStep (s : State) : State :=
  match s.phase, romFsel (romWord s) with
  | .round, some f => roundStep (romExp (romWord s)) (romKsel (romWord s)) f s
  | .final, _ => finalize s
  | _, _ => s

theorem engineStep_idle {s : State} (hb : s.busy = false) : engineStep s = s := by
  simp [engineStep, phase_eq_idle.mpr hb]

theorem engineStep_round {s : State} {f : BoolFn} (hb : s.busy = true) (ht : s.t.toNat < 80)
    (hf : romFsel (romWord s) = some f) :
    engineStep s = roundStep (romExp (romWord s)) (romKsel (romWord s)) f s := by
  simp [engineStep, phase_eq_round.mpr ⟨hb, ht⟩, hf]

theorem engineStep_final {s : State} (hb : s.busy = true) (ht : s.t.toNat = 80) : engineStep s = finalize s := by
  simp [engineStep, phase_eq_final.mpr ⟨hb, ht⟩]

/-- What the engine's turn can be. -/
theorem engineStep_cases (s : State) :
    engineStep s = s ∨ (∃ x k f, engineStep s = roundStep x k f s) ∨ engineStep s = finalize s := by
  unfold engineStep
  split
  · exact .inr (.inl ⟨_, _, _, rfl⟩)
  · exact .inr (.inr rfl)
  · exact .inl rfl

/-- The engine's turn goes on where the ROM is legal and T is in range. -/
theorem step_engineTurn_eq {s s0 : State} (h : s.engineTurn s0) (hlegal : romLegal s.rom = true)
    (ht : s.t.toNat ≤ 80) : step s = .next (engineStep s0) := by
  have hs0 := engineTurn_eq h
  have hb0 : s0.busy = s.busy := by rw [hs0]
  have ht0 : s0.t = s.t := by rw [hs0]
  cases hb : s.busy with
  | false => rw [step_engineTurn_idle h hb, engineStep_idle (hb0.trans hb)]
  | true =>
    obtain hlt | heq := Nat.lt_or_eq_of_le ht
    · obtain ⟨f, hf, hs⟩ := step_engineTurn_round h hb hlt hlegal
      rw [← romWord_engineTurn h hlt] at hf hs
      rw [hs, engineStep_round (hb0.trans hb) (ht0 ▸ hlt) hf]
    · rw [step_engineTurn_final h hb heq, engineStep_final (hb0.trans hb) (ht0 ▸ heq)]

/-! ### The rounds of the document -/

/-- The function and the constant of a round's group are the document's (R170, R175). -/
theorem roundWork_eq_docRound (t : Fin 80) {f : BoolFn}
    (hf : [BoolFn.sel, .xor, .maj, .xor][(roundGroup t).val]? = some f) (sw : Word) (q : Work) :
    roundWork f (ktab (BitVec.ofFin (roundGroup t))) sw q = docRound t sw q := by
  have hgroup : (roundGroup t).val = t.val / 20 := rfl
  generalize roundGroup t = g at hf hgroup ⊢
  rw [roundWork, roundSum, docRound]
  obtain rfl | rfl | rfl | rfl : g = 0 ∨ g = 1 ∨ g = 2 ∨ g = 3 := by omega
  all_goals
    cases hf
    simp (disch := omega) only [docFn, docConst, if_pos, if_neg]
    rfl

/-- The fields of ROM[T] in the table of R176: the group's function and constant, and EXP from round 16 on. -/
theorem romWord_fields {s : State} (hrom : s.rom = romTable) (ht : s.t.toNat < 80) :
    ∃ f, romFsel (romWord s) = some f ∧ [BoolFn.sel, .xor, .maj, .xor][(roundGroup ⟨s.t.toNat, ht⟩).val]? = some f ∧
      romExp (romWord s) = decide (16 ≤ s.t.toNat) ∧
      romKsel (romWord s) = BitVec.ofFin (roundGroup ⟨s.t.toNat, ht⟩) := by
  have hword : romWord s = controlWord (decide (16 ≤ s.t.toNat)) (roundGroup ⟨s.t.toNat, ht⟩) := by
    rw [romWord, dif_pos ht, hrom]
    exact reset_rom_eq_controlWord ⟨s.t.toNat, ht⟩
  have hgroup : (roundGroup ⟨s.t.toNat, ht⟩).val < [BoolFn.sel, .xor, .maj, .xor].length := (roundGroup _).isLt
  have hsel := romFsel_controlWord (decide (16 ≤ s.t.toNat)) (roundGroup ⟨s.t.toNat, ht⟩)
  rw [← hword, List.getElem?_eq_getElem hgroup] at hsel
  refine ⟨_, hsel, List.getElem?_eq_getElem hgroup, ?_, ?_⟩
  · rw [hword, romExp, controlWord_exp]
  · rw [hword, romKsel, controlWord_ksel]

/-! ### A block under way -/

/-- The block `m` is under way from the accumulators `h`: T rounds of the document are done. -/
structure InFlight (h : Vector Word 5) (m : Vector Word 16) (s : State) : Prop where
  rom : s.rom = romTable
  busy : s.busy = true
  notDone : s.done = false
  inRange : s.t.toNat ≤ 80
  acc : s.h = h
  work : s.work = docRounds m s.t.toNat (workOf h)
  window : windowHolds m s.t.toNat s.w

/-- The events to come are no matter of the block. -/
theorem inFlight_pending {h : Vector Word 5} {m : Vector Word 16} {s : State} (hs : InFlight h m s)
    (evs : List Event) : InFlight h m { s with pending := evs } :=
  ⟨hs.rom, hs.busy, hs.notDone, hs.inRange, hs.acc, hs.work, hs.window⟩

/-- The state after an accepted START (R120). -/
def startBlock (s : State) : State :=
  acknowledge { loadWork (loadWindow s) with t := 0, wvalid := 0, done := false, busy := true }

@[simp] theorem startBlock_t (s : State) : (startBlock s).t = 0 := rfl

/-- The write of START, accepted (R120). -/
theorem step_start {s : State} {rest : List Event} (hp : s.pending = .host (wrReg .ctrl 0x2#32) :: rest)
    (hb : s.busy = false) (hv : s.wvalid = 0xFFFF#16) : step s = .next (startBlock { s with pending := rest }) :=
  (step_host hp (decodeTxn_wrReg .ctrl 0x2#32)).trans (exec_start_accepted { s with pending := rest } hb hv)

/-- An accepted START puts the block in M under way from H (R151, R202). -/
theorem inFlight_startBlock {s : State} (hrom : s.rom = romTable) : InFlight s.h s.m (startBlock s) :=
  ⟨hrom, rfl, rfl, Nat.zero_le _, rfl, rfl, windowHolds_zero s.m⟩

/-- A turn of the engine before T = 80 is one round of the block. -/
theorem inFlight_engineStep {h : Vector Word 5} {m : Vector Word 16} {s : State} (hs : InFlight h m s)
    (ht : s.t.toNat < 80) : InFlight h m (engineStep s) ∧ (engineStep s).t.toNat = s.t.toNat + 1 := by
  obtain ⟨hrom, hb, hd, -, hh, hq, hw⟩ := hs
  obtain ⟨f, hf, hgroup, hexp, hksel⟩ := romWord_fields hrom ht
  have hsucc : (s.t + 1).toNat = s.t.toNat + 1 := roundCounter_succ ht
  rw [engineStep_round hb ht hf, hexp, hksel]
  refine ⟨⟨hrom, hb, hd, ?_, hh, ?_, ?_⟩, hsucc⟩
  · rw [roundStep_t, hsucc]
    exact ht
  · rw [roundStep_t, hsucc, roundStep_work, hq, schedWord_eq_schedule hw]
    exact roundWork_eq_docRound ⟨s.t.toNat, ht⟩ hgroup _ _
  · rw [roundStep_t, hsucc, roundStep_w]
    exact windowHolds_succ hw

/-- The turn with T = 80 puts the document's update of the accumulators into H (R204, R205). -/
theorem inFlight_final {h : Vector Word 5} {m : Vector Word 16} {s : State} (hs : InFlight h m s)
    (ht : s.t.toNat = 80) :
    engineStep s = finalize s ∧ (finalize s).h = docBlock h m := by
  obtain ⟨-, hb, -, -, hh, hq, -⟩ := hs
  refine ⟨engineStep_final hb ht, ?_⟩
  rw [finalize_h, hh, hq, ht]
  rfl

/-- A host transaction runs no micro-operation. -/
theorem runs_host_not_microOp {s : State} {t : Txn} {rest : List Event} {i : Instr} (hp : s.pending = .host t :: rest)
    (ran : s.runs = some i) : i ∉ roundOps ∧ i ≠ .fin := by
  have hd : decodeTxn t.record t.size = .ok i := by
    rw [runs_host hp, Event.asks] at ran
    cases hd : decodeTxn t.record t.size with
    | ok j => simpa [hd, Decoded.instr?] using ran
    | reject r => simp [hd, Decoded.instr?] at ran
  have := (decodeTxn_transaction hd).2
  exact ⟨(decodeTxn_transaction hd).1, fun hfin => by simp [hfin] at this⟩

/-- No host transaction but ABORT disturbs a block under way (R131, R283). -/
theorem inFlight_host {h : Vector Word 5} {m : Vector Word 16} {s s' : State} {t : Txn} {rest : List Event}
    (hs : InFlight h m s) (hp : s.pending = .host t :: rest) (habort : Event.asks (.host t) ≠ some (.wrCtrl 0x3#32))
    (hstep : step s = .next s') : InFlight h m s' ∧ s'.t = s.t := by
  obtain ⟨hrom, hb, hd, ht, hh, hq, hw⟩ := hs
  cases stepEffect_of_step hstep with
  | answers | refuses | writesIrqen | writesM => exact ⟨⟨hrom, hb, hd, ht, hh, hq, hw⟩, rfl⟩
  | clears => exact ⟨⟨hrom, hb, rfl, ht, hh, hq, hw⟩, rfl⟩
  | resets hr => simp [State.resets, hp] at hr
  | aborts ran => exact absurd (asks_of_runs_wrCtrl hp ran) habort
  | inits _ hb' | starts _ hb' | writesH _ _ _ hb' => exact absurd (hb'.symm.trans hb) Bool.false_ne_true
  | rounds _ _ _ ran =>
    obtain ⟨i, hi, ran⟩ := ran
    exact absurd hi (runs_host_not_microOp hp ran).1
  | finalizes ran => exact absurd rfl (runs_host_not_microOp hp ran).2

/-- Legal events without ABORT or reset run a block on by as many rounds as they hold turns of the engine. -/
theorem run_inFlight {h : Vector Word 5} {m : Vector Word 16} (evs rest : List Event) {s : State} (hs : InFlight h m s)
    (hp : s.pending = evs ++ rest) (hturns : s.t.toNat + engineTurns evs ≤ 80)
    (hall : ∀ e ∈ evs, e ≠ .reset ∧ e.legal = true ∧ e.asks ≠ some (.wrCtrl 0x3#32)) :
    ∃ s', run evs.length s = .next s' ∧ InFlight h m s' ∧ s'.t.toNat = s.t.toNat + engineTurns evs ∧
      s'.pending = rest := by
  induction evs generalizing s with
  | nil => exact ⟨s, rfl, hs, rfl, hp⟩
  | cons e es ih =>
    obtain ⟨⟨hreset, hlegal, habort⟩, hes⟩ := List.forall_mem_cons.mp hall
    have key : ∃ s1, step s = .next s1 ∧ InFlight h m s1 ∧
        s1.t.toNat + engineTurns es = s.t.toNat + engineTurns (e :: es) := by
      cases e with
      | reset => exact absurd rfl hreset
      | engine =>
        have hcount : engineTurns (.engine :: es) = engineTurns es + 1 := List.count_cons_self
        have hturn := step_engineTurn_eq (.inr ⟨es ++ rest, hp, rfl⟩) (hs.rom ▸ romLegal_romTable) hs.inRange
        have hs0 := inFlight_pending hs (es ++ rest)
        obtain ⟨hs1, ht1⟩ := inFlight_engineStep hs0 (show s.t.toNat < 80 by omega)
        exact ⟨_, hturn, hs1, by rw [ht1, hcount]; exact Nat.succ_add_eq_add_succ _ _⟩
      | host t =>
        have hcount : engineTurns (.host t :: es) = engineTurns es := List.count_cons_of_ne (by simp)
        obtain ⟨s1, h1⟩ := step_host_goes_on hp hlegal
        obtain ⟨hs1, ht1⟩ := inFlight_host hs hp habort h1
        exact ⟨s1, h1, hs1, by rw [ht1, hcount]⟩
    obtain ⟨s1, h1, hs1, ht1⟩ := key
    have hp1 : s1.pending = es ++ rest := by rw [step_pending h1, hp]; rfl
    obtain ⟨s', hr, hs', ht', hp'⟩ := ih hs1 hp1 (ht1 ▸ hturns) hes
    exact ⟨s', (run_step h1).trans hr, hs', ht'.trans ht1, hp'⟩

end Sys2Proof.Machine

namespace Sys2Proof
open Machine

/-- Settles O54: 80 turns of the block that START puts under way, then the finalize step. -/
theorem startThenEightyOneTurns : Obligations.StartThenEightyOneTurns := by
  intro s evs rest hrom hb hv hp hturns hall
  have started := step_start hp hb hv
  have inFlight := inFlight_startBlock (s := { s with pending := evs ++ .engine :: rest }) hrom
  obtain ⟨s1, hr, hs1, ht1, hp1⟩ := run_inFlight evs (.engine :: rest) inFlight rfl (by simp [hturns]) hall
  have h80 : s1.t.toNat = 80 := by simpa [hturns] using ht1
  have ht80 : s1.t = 80#7 := BitVec.eq_of_toNat_eq h80
  have before : run (1 + evs.length) s = .next s1 := by
    rw [Nat.add_comm]
    exact (run_step started).trans hr
  have last := step_fin hp1 hs1.busy ht80
  have updated := (inFlight_final (inFlight_pending hs1 rest) h80).2
  exact ⟨⟨s1, before, hs1.acc, hs1.busy, hs1.notDone, ht80⟩,
    _, (run_add 1 before).trans (run_one last), updated, rfl, rfl, ht80, rfl⟩

end Sys2Proof
end

/-! PROOFS. The engine between two acts of the host: its turns change no register the host writes, and leave it idle
after at most 81 of them (R131, R283). -/

section
namespace Sys2Proof.Machine

/-! ### What the engine's turn keeps -/

theorem engineStep_m (s : State) : (engineStep s).m = s.m := by
  obtain h | ⟨x, k, f, h⟩ | h := engineStep_cases s <;> rw [h] <;> rfl

theorem engineStep_wvalid (s : State) : (engineStep s).wvalid = s.wvalid := by
  obtain h | ⟨x, k, f, h⟩ | h := engineStep_cases s <;> rw [h] <;> rfl

theorem engineStep_err (s : State) : (engineStep s).err = s.err := by
  obtain h | ⟨x, k, f, h⟩ | h := engineStep_cases s <;> rw [h] <;> rfl

theorem engineStep_doneIe (s : State) : (engineStep s).doneIe = s.doneIe := by
  obtain h | ⟨x, k, f, h⟩ | h := engineStep_cases s <;> rw [h] <;> rfl

/-- The engine's turn commutes with every update that neither changes the phase and the ROM word nor is seen by the
engine's micro-operations. -/
theorem engineStep_commute {f : State → State} (hphase : ∀ s, (f s).phase = s.phase)
    (hword : ∀ s, romWord (f s) = romWord s) (hround : ∀ x k g s, roundStep x k g (f s) = f (roundStep x k g s))
    (hfin : ∀ s, finalize (f s) = f (finalize s)) : Function.Commute engineStep f := by
  intro s
  unfold engineStep
  rw [hphase, hword]
  split
  · exact hround _ _ _ s
  · exact hfin s
  · rfl

/-- The events to come. -/
def State.withPending (s : State) (pending : List Event) : State := { s with pending := pending }

/-- What an answer on the bus changes. -/
def State.withAnswer (s : State) (response : Response) : State := { s with response := response, pending := [] }

/-- What a write of a message word changes. -/
def State.withWord (s : State) (j : Fin 16) (v : Word) : State := acknowledge (writeM j v (s.withPending []))

theorem engineStep_withPending (pending : List Event) : Function.Commute engineStep (·.withPending pending) :=
  engineStep_commute (fun _ => rfl) (fun _ => rfl) (fun _ _ _ _ => rfl) (fun _ => rfl)

theorem engineStep_withAnswer (response : Response) : Function.Commute engineStep (·.withAnswer response) :=
  engineStep_commute (fun _ => rfl) (fun _ => rfl) (fun _ _ _ _ => rfl) (fun _ => rfl)

theorem engineStep_withWord (j : Fin 16) (v : Word) : Function.Commute engineStep (·.withWord j v) :=
  engineStep_commute (fun _ => rfl) (fun _ => rfl) (fun _ _ _ _ => rfl) (fun _ => rfl)

/-- Under the invariant the step of an engine's turn is `engineStep`. -/
theorem step_engine_of_inv {s : State} {rest : List Event} (hi : s.Inv) :
    step (s.withPending (.engine :: rest)) = .next ((engineStep s).withPending rest) := by
  obtain ⟨hrange, -, -, -, hrom⟩ := hi
  have turn := step_engineTurn_eq (s := s.withPending (.engine :: rest)) (.inr ⟨rest, rfl, rfl⟩)
    (hrom ▸ romLegal_romTable) hrange
  exact turn.trans (congrArg Host.Outcome.next (engineStep_withPending rest s))

theorem engineStep_inv {s : State} (hi : s.Inv) : (engineStep s).Inv :=
  step_inv (s := s.withPending [.engine]) (s' := (engineStep s).withPending []) hi (step_engine_of_inv hi)

/-- How many rounds the engine has still to run before its finalize step. -/
def roundsLeft (s : State) : Nat := if s.busy then 80 - s.t.toNat else 0

theorem roundsLeft_le (s : State) : roundsLeft s ≤ 80 := by
  unfold roundsLeft
  split <;> omega

/-- A turn after which the engine is still busy was one of the rounds left. -/
theorem roundsLeft_engineStep {s : State} (hi : s.Inv) (hb : (engineStep s).busy = true) :
    s.busy = true ∧ roundsLeft (engineStep s) + 1 = roundsLeft s := by
  obtain ⟨hrange, -, -, -, hrom⟩ := hi
  cases hbusy : s.busy with
  | false => rw [engineStep_idle hbusy, hbusy] at hb; cases hb
  | true =>
    obtain hlt | heq := Nat.lt_or_eq_of_le hrange
    · obtain ⟨f, hf, -⟩ := romWord_fields hrom hlt
      rw [engineStep_round hbusy hlt hf]
      simp only [roundsLeft, roundStep_busy, roundStep_t, hbusy, if_true, roundCounter_succ hlt, true_and]
      omega
    · rw [engineStep_final hbusy heq] at hb
      cases hb

/-! ### Some turns of the engine -/

/-- The state after `n` turns of the engine. -/
@[irreducible] def afterTurns (n : Nat) (s : State) : State := engineStep^[n] s

@[simp] theorem afterTurns_zero (s : State) : afterTurns 0 s = s := by
  rw [afterTurns, Function.iterate_zero_apply]

theorem afterTurns_succ (n : Nat) (s : State) : afterTurns (n + 1) s = afterTurns n (engineStep s) := by
  rw [afterTurns, afterTurns, Function.iterate_succ_apply]

theorem afterTurns_succ' (n : Nat) (s : State) : afterTurns (n + 1) s = engineStep (afterTurns n s) := by
  rw [afterTurns, afterTurns, Function.iterate_succ_apply']

theorem afterTurns_add (n k : Nat) (s : State) : afterTurns (n + k) s = afterTurns n (afterTurns k s) := by
  simp only [afterTurns, Function.iterate_add_apply]

/-- An update that a turn commutes with, `n` turns commute with. -/
theorem afterTurns_commute {f : State → State} (h : Function.Commute engineStep f) (n : Nat) (s : State) :
    afterTurns n (f s) = f (afterTurns n s) := by
  rw [afterTurns, afterTurns]
  exact h.iterate_left n s

/-- What every turn keeps, `n` turns keep. -/
theorem afterTurns_induction {P : State → Prop} (hP : ∀ s, P s → P (engineStep s)) (n : Nat) {s : State} (hs : P s) :
    P (afterTurns n s) := by
  induction n generalizing s with
  | zero => rwa [afterTurns_zero]
  | succ n ih => rw [afterTurns_succ]; exact ih (hP s hs)

theorem afterTurns_inv (n : Nat) {s : State} (hi : s.Inv) : (afterTurns n s).Inv :=
  afterTurns_induction (P := State.Inv) (fun _ => engineStep_inv) n hi

theorem afterTurns_m (n : Nat) (s : State) : (afterTurns n s).m = s.m :=
  afterTurns_induction (P := fun s' => s'.m = s.m) (fun _ h => (engineStep_m _).trans h) n rfl

theorem afterTurns_wvalid (n : Nat) (s : State) : (afterTurns n s).wvalid = s.wvalid :=
  afterTurns_induction (P := fun s' => s'.wvalid = s.wvalid) (fun _ h => (engineStep_wvalid _).trans h) n rfl

theorem afterTurns_err (n : Nat) (s : State) : (afterTurns n s).err = s.err :=
  afterTurns_induction (P := fun s' => s'.err = s.err) (fun _ h => (engineStep_err _).trans h) n rfl

theorem afterTurns_doneIe (n : Nat) (s : State) : (afterTurns n s).doneIe = s.doneIe :=
  afterTurns_induction (P := fun s' => s'.doneIe = s.doneIe) (fun _ h => (engineStep_doneIe _).trans h) n rfl

theorem afterTurns_idle (n : Nat) {s : State} (hb : s.busy = false) : afterTurns n s = s :=
  afterTurns_induction (P := fun s' => s' = s) (fun _ h => by rw [h, engineStep_idle hb]) n rfl

/-- A run through `n` turns of the engine. -/
theorem run_engine_turns {s : State} (hi : s.Inv) (n : Nat) (rest : List Event) :
    run n (s.withPending (List.replicate n .engine ++ rest)) = .next ((afterTurns n s).withPending rest) := by
  induction n generalizing s with
  | zero => rw [afterTurns_zero]; rfl
  | succ n ih =>
    rw [afterTurns_succ, ← ih (engineStep_inv hi)]
    exact run_step (step_engine_of_inv hi)

/-- Where the engine is still busy after `n` turns, they were `n` of the rounds left. -/
theorem roundsLeft_afterTurns {s : State} (hi : s.Inv) (n : Nat) (hb : (afterTurns n s).busy = true) :
    roundsLeft (afterTurns n s) + n = roundsLeft s := by
  induction n with
  | zero => rw [afterTurns_zero, Nat.add_zero]
  | succ n ih =>
    rw [afterTurns_succ'] at hb ⊢
    obtain ⟨hb', hleft⟩ := roundsLeft_engineStep (afterTurns_inv n hi) hb
    have := ih hb'
    omega

/-- More turns than rounds left make the engine idle. -/
theorem afterTurns_busy {s : State} (hi : s.Inv) {n : Nat} (hn : roundsLeft s < n) :
    (afterTurns n s).busy = false := by
  rw [← Bool.not_eq_true]
  intro hb
  have := roundsLeft_afterTurns hi n hb
  omega

/-! ### The engine left alone -/

/-- The state in which the engine, left alone, comes to rest. -/
def atRest (s : State) : State := afterTurns 81 s

theorem atRest_busy {s : State} (hi : s.Inv) : (atRest s).busy = false :=
  afterTurns_busy hi (Nat.lt_succ_of_le (roundsLeft_le s))

theorem atRest_inv {s : State} (hi : s.Inv) : (atRest s).Inv := afterTurns_inv 81 hi

theorem atRest_idle {s : State} (hb : s.busy = false) : atRest s = s := afterTurns_idle 81 hb

/-- Turns of the engine do not change where it comes to rest. -/
theorem atRest_afterTurns {s : State} (hi : s.Inv) (n : Nat) : atRest (afterTurns n s) = atRest s := by
  rw [atRest, ← afterTurns_add, Nat.add_comm, afterTurns_add]
  exact afterTurns_idle n (atRest_busy hi)

theorem atRest_engineStep {s : State} (hi : s.Inv) : atRest (engineStep s) = atRest s := by
  rw [← atRest_afterTurns hi 1, afterTurns_succ, afterTurns_zero]

/-- Where the engine is found idle, it has come to rest. -/
theorem afterTurns_eq_atRest {s : State} (hi : s.Inv) {n : Nat} (hb : (afterTurns n s).busy = false) :
    afterTurns n s = atRest s := by
  rw [← atRest_afterTurns hi n, atRest_idle hb]

theorem atRest_withPending (s : State) (pending : List Event) :
    atRest (s.withPending pending) = (atRest s).withPending pending :=
  afterTurns_commute (engineStep_withPending pending) 81 s

theorem atRest_withAnswer (s : State) (response : Response) :
    atRest (s.withAnswer response) = (atRest s).withAnswer response :=
  afterTurns_commute (engineStep_withAnswer response) 81 s

theorem atRest_withWord (s : State) (j : Fin 16) (v : Word) :
    atRest (s.withWord j v) = (atRest s).withWord j v :=
  afterTurns_commute (engineStep_withWord j v) 81 s

/-- A block under way comes to rest with the document's update in H (R205). -/
theorem atRest_of_inFlight {h : Vector Word 5} {m : Vector Word 16} {s : State} (hi : s.Inv) (hs : InFlight h m s) :
    (atRest s).h = docBlock h m := by
  induction hk : 80 - s.t.toNat generalizing s with
  | zero =>
    obtain ⟨hstep, hh⟩ := inFlight_final hs (Nat.le_antisymm hs.inRange (Nat.le_of_sub_eq_zero hk))
    rw [← atRest_engineStep hi, hstep]
    exact (congrArg State.h (atRest_idle (s := finalize s) rfl)).trans hh
  | succ k ih =>
    obtain ⟨hs', ht'⟩ := inFlight_engineStep hs (by omega)
    rw [← atRest_engineStep hi]
    exact ih (engineStep_inv hi) hs' (by omega)

/-- A block has been started and nothing has stopped it: it runs, or it is done. -/
abbrev State.begun (s : State) : Prop := s.busy = true ∨ s.done = true

theorem engineStep_begun {s : State} (h : s.begun) : (engineStep s).begun := by
  obtain he | ⟨x, k, f, he⟩ | he := engineStep_cases s <;> rw [he]
  · exact h
  · exact h
  · exact .inr rfl

theorem afterTurns_begun (n : Nat) {s : State} (h : s.begun) : (afterTurns n s).begun :=
  afterTurns_induction (P := State.begun) (fun _ => engineStep_begun) n h

end Sys2Proof.Machine
end

/-! PROOFS. The acts of the driver (R226): reads, writes and waits, whatever turns of the engine come between them. -/

section
namespace Sys2Proof.Machine

/-! ### One act -/

/-- An act of the host is the run of its own events after the turns that come before it. -/
theorem act_after_turns (gap : Nat → Nat) (own : List Event) {r : HostRun} {s' : State} (hi : r.dev.Inv)
    (h : run own.length ((afterTurns (gap r.acts) r.dev).withPending own) = .next s') :
    act gap own r = .ok ⟨s', r.acts + 1⟩ := by
  have whole := (run_add own.length (run_engine_turns hi (gap r.acts) own)).trans h
  rw [State.withPending] at whole
  simp only [act, whole]

/-- The machine when the host acts: the turns before the act have passed. -/
def HostRun.now (gap : Nat → Nat) (r : HostRun) : State := afterTurns (gap r.acts) r.dev

theorem now_of_idle (gap : Nat → Nat) {r : HostRun} (hb : r.dev.busy = false) : r.now gap = r.dev :=
  afterTurns_idle _ hb

theorem now_inv (gap : Nat → Nat) {r : HostRun} (hi : r.dev.Inv) : (r.now gap).Inv := afterTurns_inv _ hi

/-- The host after an access that is answered with `response`. -/
def HostRun.heard (gap : Nat → Nat) (r : HostRun) (response : Response) : HostRun :=
  ⟨(r.now gap).withAnswer response, r.acts + 1⟩

@[simp] theorem heard_acts (gap : Nat → Nat) (r : HostRun) (response : Response) :
    (r.heard gap response).acts = r.acts + 1 := rfl

/-- A look at `irq` finds its level, and leaves the answer before it. -/
theorem lookIrq_after_turns (gap : Nat → Nat) {r : HostRun} (hi : r.dev.Inv) :
    lookIrq gap r = .ok (irq (r.now gap), r.heard gap (r.now gap).response) := by
  rw [lookIrq, act_after_turns gap [] hi rfl]
  rfl

/-- A host read answers the register's value. -/
theorem hostRead_after_turns (gap : Nat → Nat) {reg : WindowReg} {r : HostRun} {v : Word} (hi : r.dev.Inv)
    (h : memRead reg (r.now gap) = some v) : hostRead gap reg r = .ok (v, r.heard gap (.value v)) := by
  have hv : memRead reg ((r.now gap).withPending []) = some v := by cases reg <;> exact h
  have one := run_one ((step_host (s := (r.now gap).withPending [.host (rdReg reg)]) rfl (decodeTxn_rdReg reg)).trans
    (exec_read hv))
  rw [hostRead, access, act_after_turns gap [_] hi one]
  rfl

/-- A host write is the meaning of its instruction, where that completes the write. -/
theorem hostWrite_after_turns (gap : Nat → Nat) {reg : WindowReg} {w : Word} {r : HostRun} {s' : State}
    (hi : r.dev.Inv) (h : exec (accessInstr .write reg w) ((r.now gap).withPending []) = .next s')
    (hw : s'.response = .written) : hostWrite gap reg w r = .ok ⟨s', r.acts + 1⟩ := by
  have one := run_one ((step_host (s := (r.now gap).withPending [.host (wrReg reg w)]) rfl
    (decodeTxn_wrReg reg w)).trans h)
  rw [hostWrite, access, act_after_turns gap [_] hi one]
  simp [bind, Except.bind, hw]

/-- A host write keeps the invariant. -/
theorem exec_write_inv {reg : WindowReg} {w : Word} {s s' : State} (hi : s.Inv)
    (h : exec (accessInstr .write reg w) (s.withPending []) = .next s') : s'.Inv :=
  step_inv (s := s.withPending [.host (wrReg reg w)]) hi ((step_host rfl (decodeTxn_wrReg reg w)).trans h)

/-! ### The waits -/

/-- The turns of the engine among `fuel` acts of the host from its n-th on. -/
def turnsIn (gap : Nat → Nat) (n fuel : Nat) : Nat := ((List.range fuel).map fun k => gap (n + k)).sum

theorem turnsIn_zero (gap : Nat → Nat) (n : Nat) : turnsIn gap n 0 = 0 := rfl

theorem turnsIn_succ (gap : Nat → Nat) (n fuel : Nat) :
    turnsIn gap n (fuel + 1) = gap n + turnsIn gap (n + 1) fuel := by
  have shift (k : Nat) : n + 1 + k = n + (k + 1) := by omega
  simp [turnsIn, List.range_succ_eq_map, List.map_map, Function.comp_def, shift]

/-- The state a wait ends in: the engine at rest, and STATUS read. -/
def waited (s : State) : State := (atRest s).withAnswer (.value (statusWord (atRest s)))

/-- An access that only answers does not change where the engine comes to rest. -/
theorem waited_heard (gap : Nat → Nat) {r : HostRun} (hi : r.dev.Inv) (response : Response) :
    waited (r.heard gap response).dev = waited r.dev := by
  have rest : atRest (r.heard gap response).dev = (atRest r.dev).withAnswer response := by
    rw [HostRun.heard, atRest_withAnswer, HostRun.now, atRest_afterTurns hi]
  rw [waited, rest]
  rfl

/-- A wait loop that, at an act which finds the engine at rest, ends in `waited`, and otherwise goes on after one act
that only answers, ends in `waited` for every fuel that leaves the engine more turns than it has rounds left. -/
theorem wait_ends {loop : Nat → HostRun → Except CallError (Word × HostRun)} {gap : Nat → Nat} {P : HostRun → Prop}
    (found : ∀ r, P r → (r.now gap).busy = false →
      ∃ n, ∀ k, loop (k + 1) r = .ok (statusWord (waited r.dev), ⟨waited r.dev, n⟩))
    (goesOn : ∀ r, P r → (r.now gap).busy = true →
      ∃ response, P (r.heard gap response) ∧ ∀ k, loop (k + 1) r = loop k (r.heard gap response))
    (inv : ∀ r, P r → r.dev.Inv) (enough : Nat) {r : HostRun} (hr : P r)
    (henough : roundsLeft r.dev < turnsIn gap r.acts enough) :
    ∃ n, ∀ fuel, roundsLeft r.dev < turnsIn gap r.acts fuel →
      loop fuel r = .ok (statusWord (waited r.dev), ⟨waited r.dev, n⟩) := by
  induction enough generalizing r with
  | zero => simp [turnsIn_zero] at henough
  | succ k ih =>
    have hi := inv r hr
    cases hb : (r.now gap).busy with
    | false =>
      obtain ⟨n, hn⟩ := found r hr hb
      refine ⟨n, fun fuel hfuel => ?_⟩
      cases fuel with
      | zero => simp [turnsIn_zero] at hfuel
      | succ k => exact hn k
    | true =>
      obtain ⟨response, hr', hloop⟩ := goesOn r hr hb
      have hleft : roundsLeft (r.heard gap response).dev + gap r.acts = roundsLeft r.dev :=
        roundsLeft_afterTurns hi _ hb
      have fewer (f : Nat) (hf : roundsLeft r.dev < turnsIn gap r.acts (f + 1)) :
          roundsLeft (r.heard gap response).dev < turnsIn gap (r.heard gap response).acts f := by
        rw [turnsIn_succ] at hf
        rw [heard_acts]
        omega
      obtain ⟨n, hn⟩ := ih hr' (fewer k henough)
      refine ⟨n, fun fuel hfuel => ?_⟩
      cases fuel with
      | zero => simp [turnsIn_zero] at hfuel
      | succ f => rw [hloop, hn f (fewer f hfuel), waited_heard gap hi]

theorem waited_inv {s : State} (hi : s.Inv) : (waited s).Inv := atRest_inv hi

@[simp] theorem waited_busy {s : State} (hi : s.Inv) : (waited s).busy = false := atRest_busy hi

@[simp] theorem waited_err (s : State) : (waited s).err = s.err := afterTurns_err 81 s

/-- A block that has begun is done when the engine is idle. -/
theorem done_of_begun {s : State} (hi : s.Inv) (hbegun : s.begun) : s.done = !s.busy := by
  obtain ⟨-, -, hdone, -, -⟩ := hi
  cases hd : s.done with
  | true => rw [(hdone hd).1]; rfl
  | false => rw [hbegun.resolve_right (by simp [hd])]; rfl

theorem waited_done {s : State} (hi : s.Inv) (hbegun : s.begun) : (waited s).done = true := by
  rw [done_of_begun (waited_inv hi) (afterTurns_begun 81 hbegun), waited_busy hi]
  rfl

/-- Where an act finds the engine idle, a read of STATUS then is the end of a wait. -/
theorem hostRead_status_at_rest (gap : Nat → Nat) {r : HostRun} (hi : r.dev.Inv) (hb : (r.now gap).busy = false) :
    hostRead gap .status r = .ok (statusWord (waited r.dev), ⟨waited r.dev, r.acts + 1⟩) := by
  have hrest : r.now gap = atRest r.dev := afterTurns_eq_atRest hi hb
  rw [hostRead_after_turns gap hi rfl, HostRun.heard, hrest]
  rfl

/-- A wait on STATUS ends: the read that finds BUSY = 0 is its last. -/
theorem waitIdle_ends (gap : Nat → Nat) (enough : Nat) {r : HostRun} (hi : r.dev.Inv)
    (henough : roundsLeft r.dev < turnsIn gap r.acts enough) :
    ∃ n, ∀ fuel, roundsLeft r.dev < turnsIn gap r.acts fuel →
      waitIdle gap fuel r = .ok (statusWord (waited r.dev), ⟨waited r.dev, n⟩) := by
  refine wait_ends (P := fun r => r.dev.Inv) (fun r hi hb => ⟨r.acts + 1, fun k => ?_⟩)
    (fun r hi hb => ⟨.value (statusWord (r.now gap)), now_inv gap hi, fun k => ?_⟩) (fun _ => id) enough hi henough
  · rw [waitIdle, hostRead_status_at_rest gap hi hb]
    simp [bind, Except.bind, waited_busy hi]
  · rw [waitIdle, hostRead_after_turns gap hi rfl]
    simp [bind, Except.bind, hb]

/-- What the driver keeps up between its accesses: the invariant, no error recorded, and DONE enabled where it waits on
`irq`. -/
structure Ready (way : WaitBy) (s : State) : Prop where
  inv : s.Inv
  noErr : s.err = false
  enabled : way = .irq → s.doneIe = true

theorem ready_afterTurns {way : WaitBy} (n : Nat) {s : State} (hs : Ready way s) : Ready way (afterTurns n s) :=
  ⟨afterTurns_inv n hs.inv, (afterTurns_err n s).trans hs.noErr,
    fun hway => (afterTurns_doneIe n s).trans (hs.enabled hway)⟩

theorem ready_withAnswer {way : WaitBy} {s : State} (hs : Ready way s) (response : Response) :
    Ready way (s.withAnswer response) :=
  ⟨hs.inv, hs.noErr, hs.enabled⟩

theorem ready_waited {way : WaitBy} {s : State} (hs : Ready way s) : Ready way (waited s) :=
  ready_withAnswer (ready_afterTurns 81 hs) _

/-- While a block has begun, a host that waits on `irq` finds it high exactly where the engine is idle. -/
theorem now_irq (gap : Nat → Nat) {r : HostRun} (hs : Ready .irq r.dev) (hbegun : r.dev.begun) :
    irq (r.now gap) = !(r.now gap).busy := by
  have hnow : Ready .irq (r.now gap) := ready_afterTurns _ hs
  rw [← done_of_begun hnow.inv (afterTurns_begun _ hbegun)]
  simp [irq, hnow.enabled rfl, hnow.noErr]

/-- A wait on `irq` ends: the look that finds it high is its last, and STATUS then shows DONE. -/
theorem waitIrq_ends (gap : Nat → Nat) (enough : Nat) {r : HostRun} (hs : Ready .irq r.dev) (hbegun : r.dev.begun)
    (henough : roundsLeft r.dev < turnsIn gap r.acts enough) :
    ∃ n, ∀ fuel, roundsLeft r.dev < turnsIn gap r.acts fuel →
      waitIrq gap fuel r = .ok (statusWord (waited r.dev), ⟨waited r.dev, n⟩) := by
  refine wait_ends (P := fun r => Ready .irq r.dev ∧ r.dev.begun)
    (fun r ⟨hs, hbegun⟩ hb => ⟨r.acts + 1 + 1, fun k => ?_⟩)
    (fun r ⟨hs, hbegun⟩ hb => ⟨(r.now gap).response, ⟨?_, ?_⟩, fun k => ?_⟩)
    (fun _ hr => hr.1.inv) enough ⟨hs, hbegun⟩ henough
  · have still : ((r.heard gap (r.now gap).response).now gap).busy = false := by
      rw [now_of_idle gap (r := r.heard gap (r.now gap).response) hb]
      exact hb
    have status := hostRead_status_at_rest gap (now_inv gap hs.inv) still
    rw [waited_heard gap hs.inv, heard_acts] at status
    rw [waitIrq, lookIrq_after_turns gap hs.inv]
    simp [bind, Except.bind, now_irq gap hs hbegun, hb, status, waited_done hs.inv hbegun]
  · exact ready_withAnswer (ready_afterTurns _ hs) _
  · exact afterTurns_begun _ hbegun
  · rw [waitIrq, lookIrq_after_turns gap hs.inv]
    simp [bind, Except.bind, now_irq gap hs hbegun, hb]

/-- The wait for a block ends by either way. -/
theorem awaitBlock_ends {way : WaitBy} (gap : Nat → Nat) (enough : Nat) {r : HostRun} (hs : Ready way r.dev)
    (hbegun : r.dev.begun) (henough : roundsLeft r.dev < turnsIn gap r.acts enough) :
    ∃ n, ∀ fuel, roundsLeft r.dev < turnsIn gap r.acts fuel →
      awaitBlock way gap fuel r = .ok (statusWord (waited r.dev), ⟨waited r.dev, n⟩) := by
  cases way with
  | polling => exact waitIdle_ends gap enough hs.inv henough
  | irq => exact waitIrq_ends gap enough hs hbegun henough

/-- The wait for a block and the check after it: no error is found. -/
theorem finishBlock_ends {way : WaitBy} (gap : Nat → Nat) (enough : Nat) {r : HostRun} (hs : Ready way r.dev)
    (hbegun : r.dev.begun) (henough : roundsLeft r.dev < turnsIn gap r.acts enough) :
    ∃ n, ∀ fuel, roundsLeft r.dev < turnsIn gap r.acts fuel →
      finishBlock way gap fuel r = .ok ⟨waited r.dev, n⟩ := by
  obtain ⟨n, hn⟩ := awaitBlock_ends gap enough hs hbegun henough
  refine ⟨n, fun fuel hfuel => ?_⟩
  rw [finishBlock, hn fuel hfuel]
  simp [bind, Except.bind, requireNoError, hs.noErr]

end Sys2Proof.Machine
end

/-! PROOFS. The driver's blocks and calls (R226, R274), for every fuel that a fair interleaving makes large enough. -/

section
namespace Sys2Proof.Machine

/-! ### Accesses that leave H to the engine -/

/-- `s'` comes from `s` by turns of the engine and accesses that leave H, the flags and the enables to it. -/
structure Carries (s s' : State) : Prop where
  inv : s.Inv → s'.Inv
  err : s'.err = s.err
  doneIe : s'.doneIe = s.doneIe
  begun : s.begun → s'.begun
  idle : s.busy = false → s'.busy = false
  acc : s.Inv → (atRest s').h = (atRest s).h

theorem Carries.refl (s : State) : Carries s s := ⟨id, rfl, rfl, id, id, fun _ => rfl⟩

theorem Carries.trans {s s1 s2 : State} (h1 : Carries s s1) (h2 : Carries s1 s2) : Carries s s2 :=
  ⟨h2.inv ∘ h1.inv, h2.err.trans h1.err, h2.doneIe.trans h1.doneIe, h2.begun ∘ h1.begun, h2.idle ∘ h1.idle,
    fun hi => (h2.acc (h1.inv hi)).trans (h1.acc hi)⟩

theorem Carries.ready {way : WaitBy} {s s' : State} (h : Carries s s') (hs : Ready way s) : Ready way s' :=
  ⟨h.inv hs.inv, h.err.trans hs.noErr, fun hway => h.doneIe.trans (hs.enabled hway)⟩

/-- Where the engine is idle, H itself is kept. -/
theorem Carries.h_of_idle {s s' : State} (h : Carries s s') (hi : s.Inv) (hb : s.busy = false) : s'.h = s.h := by
  have hacc := h.acc hi
  rwa [atRest_idle (h.idle hb), atRest_idle hb] at hacc

theorem carries_afterTurns (n : Nat) (s : State) : Carries s (afterTurns n s) :=
  ⟨afterTurns_inv n, afterTurns_err n s, afterTurns_doneIe n s, afterTurns_begun n,
    fun hb => by rw [afterTurns_idle n hb, hb], fun hi => by rw [atRest_afterTurns hi]⟩

theorem carries_withAnswer (s : State) (response : Response) : Carries s (s.withAnswer response) :=
  ⟨id, rfl, rfl, id, id, fun _ => by rw [atRest_withAnswer]; rfl⟩

theorem carries_withWord (s : State) (j : Fin 16) (v : Word) : Carries s (s.withWord j v) :=
  ⟨id, rfl, rfl, id, id, fun _ => by rw [atRest_withWord]; rfl⟩

theorem carries_heard (gap : Nat → Nat) (r : HostRun) (response : Response) :
    Carries r.dev (r.heard gap response).dev :=
  (carries_afterTurns _ _).trans (carries_withAnswer _ _)

theorem carries_waited (s : State) : Carries s (waited s) :=
  (carries_afterTurns 81 s).trans (carries_withAnswer _ _)

/-- H after a wait is where the engine comes to rest. -/
theorem waited_h (s : State) : (waited s).h = (atRest s).h := rfl

/-! ### Loading a block -/

/-- Word `j` of M is that of block `m`, and marked valid. -/
def loaded (m : Vector Word 16) (j : Fin 16) (s : State) : Prop := s.m[j] = m[j] ∧ s.wvalid.getLsbD j.val = true

theorem loaded_afterTurns {m : Vector Word 16} {j : Fin 16} {s : State} (h : loaded m j s) (n : Nat) :
    loaded m j (afterTurns n s) := by
  rwa [loaded, afterTurns_m, afterTurns_wvalid]

/-- The write of a word of `m` loads that word and keeps the others loaded. -/
theorem loaded_withWord (m : Vector Word 16) (j k : Fin 16) {s : State} (h : k = j ∨ loaded m k s) :
    loaded m k (s.withWord j m[j]) := by
  have hbit := getLsbD_writeM_wvalid j k m[j] (s.withPending [])
  by_cases hkj : k = j
  · subst hkj
    exact ⟨Vector.getElem_set_self k.isLt, hbit.trans (by simp)⟩
  · obtain ⟨hm, hv⟩ := h.resolve_left hkj
    refine ⟨(Vector.getElem_set_ne j.isLt k.isLt fun e => hkj (Fin.ext e.symm)).trans hm, hbit.trans ?_⟩
    exact Bool.or_eq_true_iff.mpr (.inr hv)

/-- A block all of whose words are loaded is in M, and all of M is valid. -/
theorem eq_of_loaded {m : Vector Word 16} {s : State} (h : ∀ j, loaded m j s) : s.m = m ∧ s.wvalid = 0xFFFF#16 := by
  have ones : ∀ j < 16, (0xFFFF#16).getLsbD j = true := by decide
  exact ⟨Vector.ext fun j hj => (h ⟨j, hj⟩).1,
    BitVec.eq_of_getLsbD_eq fun j hj => (h ⟨j, hj⟩).2.trans (ones j hj).symm⟩

/-- A write of a message word completes, busy or not. -/
theorem hostWrite_m (gap : Nat → Nat) {r : HostRun} (hi : r.dev.Inv) (j : Fin 16) (v : Word) :
    hostWrite gap (.m j) v r = .ok ⟨(r.now gap).withWord j v, r.acts + 1⟩ :=
  hostWrite_after_turns gap hi (exec_wrM j v _) rfl

/-- The writes of the words `js` of a block load them. -/
theorem writeWords_loads (gap : Nat → Nat) (m : Vector Word 16) (js : List (Fin 16)) {r : HostRun} (hi : r.dev.Inv) :
    ∃ r', writeWords gap m js r = .ok r' ∧ Carries r.dev r'.dev ∧
      ∀ j, j ∈ js ∨ loaded m j r.dev → loaded m j r'.dev := by
  induction js generalizing r with
  | nil => exact ⟨r, rfl, .refl _, fun j h => h.resolve_left List.not_mem_nil⟩
  | cons j js ih =>
    have first : Carries r.dev ((r.now gap).withWord j m[j]) :=
      (carries_afterTurns _ _).trans (carries_withWord _ _ _)
    obtain ⟨r', hr', hcarries, hloaded⟩ := ih (r := ⟨(r.now gap).withWord j m[j], r.acts + 1⟩) (first.inv hi)
    refine ⟨r', ?_, first.trans hcarries, fun k hk => hloaded k ?_⟩
    · rw [writeWords, hostWrite_m gap hi]
      exact hr'
    · rw [List.mem_cons, or_assoc, or_left_comm] at hk
      exact hk.imp_right fun hk => loaded_withWord m j k (hk.imp_right fun hk => loaded_afterTurns hk _)

/-- `load_block` puts the block into M, all of it valid, and leaves a block that runs to run. -/
theorem loadBlock_loads (gap : Nat → Nat) (m : Vector Word 16) {r : HostRun} (hi : r.dev.Inv) :
    ∃ r', loadBlock gap m r = .ok r' ∧ Carries r.dev r'.dev ∧ r'.dev.m = m ∧ r'.dev.wvalid = 0xFFFF#16 := by
  obtain ⟨r', hr', hcarries, hloaded⟩ := writeWords_loads gap m (List.finRange 16) hi
  exact ⟨r', hr', hcarries, eq_of_loaded fun j => hloaded j (.inl (List.mem_finRange j))⟩

/-! ### One block -/

/-- START on an idle machine with all of M written. -/
theorem hostWrite_start {way : WaitBy} (gap : Nat → Nat) {r : HostRun} (hs : Ready way r.dev)
    (hb : r.dev.busy = false) (hv : r.dev.wvalid = 0xFFFF#16) :
    ∃ r', hostWrite gap .ctrl 0x2#32 r = .ok r' ∧ Ready way r'.dev ∧ r'.dev.begun ∧
      (atRest r'.dev).h = docBlock r.dev.h r.dev.m := by
  have started := exec_start_accepted (r.dev.withPending []) hb hv
  have hi : (startBlock (r.dev.withPending [])).Inv := exec_write_inv (reg := .ctrl) (w := 0x2#32) hs.inv started
  obtain ⟨-, -, -, -, hrom⟩ := hs.inv
  exact ⟨_, hostWrite_idle gap hb started rfl, ⟨hi, hs.noErr, hs.enabled⟩, .inl rfl,
    atRest_of_inFlight hi (inFlight_startBlock (s := r.dev.withPending []) hrom)⟩

/-- START and the check after it. -/
theorem startChecked_starts {way : WaitBy} (gap : Nat → Nat) {r : HostRun} (hs : Ready way r.dev)
    (hb : r.dev.busy = false) (hv : r.dev.wvalid = 0xFFFF#16) :
    ∃ r', startChecked gap r = .ok r' ∧ Ready way r'.dev ∧ r'.dev.begun ∧
      (atRest r'.dev).h = docBlock r.dev.h r.dev.m := by
  obtain ⟨r1, hr1, hs1, hbegun, hacc⟩ := hostWrite_start gap hs hb hv
  have hcarries := carries_heard gap r1 (.value (statusWord (r1.now gap)))
  have herr : (r1.now gap).err = false := (afterTurns_err _ _).trans hs1.noErr
  refine ⟨_, ?_, hcarries.ready hs1, hcarries.begun hbegun, (hcarries.acc hs1.inv).trans hacc⟩
  rw [startChecked, hr1]
  simp only [bind, Except.bind, hostRead_after_turns gap hs1.inv (reg := .status) rfl]
  simp [requireNoError, herr]

section Fair

variable {gap : Nat → Nat} {fuels : Filter Nat} [fuels.NeBot]

/-- A wait that ends for every fuel with more turns than rounds left ends under fairness, in one and the same way. -/
theorem eventually_of_ends (fair : ∀ n, ∀ᶠ fuel in fuels, 81 ≤ turnsIn gap n fuel) {α : Type} {r : HostRun}
    {wait : Nat → Except CallError α} {answer : Nat → α}
    (ends : ∀ enough, roundsLeft r.dev < turnsIn gap r.acts enough →
      ∃ n, ∀ fuel, roundsLeft r.dev < turnsIn gap r.acts fuel → wait fuel = .ok (answer n)) :
    ∃ n, ∀ᶠ fuel in fuels, wait fuel = .ok (answer n) := by
  have more {fuel : Nat} (h : 81 ≤ turnsIn gap r.acts fuel) : roundsLeft r.dev < turnsIn gap r.acts fuel :=
    Nat.lt_of_le_of_lt (roundsLeft_le _) h
  obtain ⟨enough, henough⟩ := (fair r.acts).exists
  obtain ⟨n, hn⟩ := ends enough (more henough)
  exact ⟨n, (fair r.acts).mono fun fuel h => hn fuel (more h)⟩

/-- Under fairness the wait for a block ends, the engine at rest. -/
theorem finishBlock_eventually (fair : ∀ n, ∀ᶠ fuel in fuels, 81 ≤ turnsIn gap n fuel) {way : WaitBy} {r : HostRun}
    (hs : Ready way r.dev) (hbegun : r.dev.begun) :
    ∃ r', r'.dev = waited r.dev ∧ ∀ᶠ fuel in fuels, finishBlock way gap fuel r = .ok r' := by
  obtain ⟨n, hn⟩ := eventually_of_ends fair fun enough => finishBlock_ends gap enough hs hbegun
  exact ⟨⟨waited r.dev, n⟩, rfl, hn⟩

/-- Under fairness the wait for STATUS.BUSY = 0 ends, the engine at rest. -/
theorem waitIdle_eventually (fair : ∀ n, ∀ᶠ fuel in fuels, 81 ≤ turnsIn gap n fuel) {r : HostRun}
    (hi : r.dev.Inv) :
    ∃ r', r'.dev = waited r.dev ∧ ∀ᶠ fuel in fuels, waitIdle gap fuel r = .ok (statusWord (waited r.dev), r') := by
  obtain ⟨n, hn⟩ := eventually_of_ends fair fun enough => waitIdle_ends gap enough hi
  exact ⟨⟨waited r.dev, n⟩, rfl, hn⟩

/-! ### The blocks of a message -/

/-- The chaining takes one block after the other (R205). -/
theorem docChain_cons (h : Vector Word 5) (m : Vector Word 16) (ms : List (Vector Word 16)) :
    docChain h (m :: ms) = docChain (docBlock h m) ms :=
  List.foldl_cons

/-- Each block loaded after the one before it: H takes the chaining of the blocks. -/
theorem hashBlocks_eventually (fair : ∀ n, ∀ᶠ fuel in fuels, 81 ≤ turnsIn gap n fuel) {way : WaitBy}
    (ms : List (Vector Word 16)) {r : HostRun} (hs : Ready way r.dev) (hb : r.dev.busy = false) :
    ∃ r', (∀ᶠ fuel in fuels, hashBlocks way gap fuel ms r = .ok r') ∧ r'.dev.busy = false ∧
      r'.dev.h = docChain r.dev.h ms := by
  induction ms generalizing r with
  | nil => exact ⟨r, .of_forall fun _ => rfl, hb, rfl⟩
  | cons m ms ih =>
    obtain ⟨r1, hload, hcarries, hm, hv⟩ := loadBlock_loads gap m hs.inv
    obtain ⟨r2, hstart, hs2, hbegun, hacc⟩ := hostWrite_start gap (hcarries.ready hs) (hcarries.idle hb) hv
    obtain ⟨r3, hr3, hfinish⟩ := finishBlock_eventually fair hs2 hbegun
    obtain ⟨r', hrest, hb', hh'⟩ := ih (r := r3) (hr3 ▸ ready_waited hs2) (hr3 ▸ waited_busy hs2.inv)
    refine ⟨r', (hfinish.and hrest).mono fun fuel ⟨hfinish, hrest⟩ => ?_, hb', ?_⟩
    · rw [hashBlocks, hload]
      simp [bind, Except.bind, hstart, hfinish, hrest]
    · rw [hh', hr3, waited_h, hacc, hcarries.h_of_idle hs.inv hb, hm, docChain_cons]

/-- Each block loaded while the one before it runs: H takes the chaining of the block in M and the later ones. -/
theorem overlapBlocks_eventually (fair : ∀ n, ∀ᶠ fuel in fuels, 81 ≤ turnsIn gap n fuel) {way : WaitBy}
    (later : List (Vector Word 16)) {r : HostRun} (hs : Ready way r.dev) (hb : r.dev.busy = false)
    (hv : r.dev.wvalid = 0xFFFF#16) :
    ∃ r', (∀ᶠ fuel in fuels, overlapBlocks way gap fuel later r = .ok r') ∧ r'.dev.busy = false ∧
      r'.dev.h = docChain r.dev.h (r.dev.m :: later) := by
  induction later generalizing r with
  | nil =>
    obtain ⟨r1, hstart, hs1, hbegun, hacc⟩ := startChecked_starts gap hs hb hv
    obtain ⟨r', hr', hfinish⟩ := finishBlock_eventually fair hs1 hbegun
    refine ⟨r', hfinish.mono fun fuel hfinish => ?_, hr' ▸ waited_busy hs1.inv, ?_⟩
    · rw [overlapBlocks, hstart]
      exact hfinish
    · rw [hr', waited_h, hacc, docChain_cons]
      rfl
  | cons m later ih =>
    obtain ⟨r1, hstart, hs1, hbegun, hacc⟩ := startChecked_starts gap hs hb hv
    obtain ⟨r2, hload, hcarries, hm, hv2⟩ := loadBlock_loads gap m hs1.inv
    have hs2 := hcarries.ready hs1
    obtain ⟨r3, hr3, hfinish⟩ := finishBlock_eventually fair hs2 (hcarries.begun hbegun)
    have hm3 : r3.dev.m = m := by rw [hr3]; exact (afterTurns_m 81 _).trans hm
    have hv3 : r3.dev.wvalid = 0xFFFF#16 := by rw [hr3]; exact (afterTurns_wvalid 81 _).trans hv2
    obtain ⟨r', hrest, hb', hh'⟩ := ih (r := r3) (hr3 ▸ ready_waited hs2) (hr3 ▸ waited_busy hs2.inv) hv3
    refine ⟨r', (hfinish.and hrest).mono fun fuel ⟨hfinish, hrest⟩ => ?_, hb', ?_⟩
    · rw [overlapBlocks, hstart]
      simp [bind, Except.bind, hload, hfinish, hrest]
    · rw [hh', hm3, hr3, waited_h, hcarries.acc hs1.inv, hacc, docChain_cons r.dev.h]

/-- The blocks of a message in the form of the call. -/
theorem hashMessage_eventually (fair : ∀ n, ∀ᶠ fuel in fuels, 81 ≤ turnsIn gap n fuel) (form : CallForm)
    (ms : List (Vector Word 16)) {r : HostRun} (hs : Ready form.waitBy r.dev) (hb : r.dev.busy = false) :
    ∃ r', (∀ᶠ fuel in fuels, hashMessage form gap fuel ms r = .ok r') ∧ r'.dev.busy = false ∧
      r'.dev.h = docChain r.dev.h ms := by
  obtain ⟨way, loadWhen⟩ := form
  cases loadWhen with
  | afterBlock => exact hashBlocks_eventually fair ms hs hb
  | whileRunning =>
    cases ms with
    | nil => exact ⟨r, .of_forall fun _ => rfl, hb, rfl⟩
    | cons m later =>
      obtain ⟨r1, hload, hcarries, hm, hv⟩ := loadBlock_loads gap m hs.inv
      obtain ⟨r', hrest, hb', hh'⟩ :=
        overlapBlocks_eventually fair later (hcarries.ready hs) (hcarries.idle hb) hv
      refine ⟨r', hrest.mono fun fuel hrest => ?_, hb', by rw [hh', hcarries.h_of_idle hs.inv hb, hm]⟩
      rw [hashMessage, hload]
      exact hrest

end Fair

end Sys2Proof.Machine
end

/-! PROOFS. The complete call (R226), booted or not (R274), and its fairness (R283). -/

section
namespace Sys2Proof.Machine

/-! ### The digest and the commands of an idle machine -/

/-- On an idle machine a read of H[i] answers it and keeps H. -/
theorem hostRead_h_idle (gap : Nat → Nat) (i : Fin 5) {r : HostRun} (hb : r.dev.busy = false) :
    ∃ r', hostRead gap (.h i) r = .ok (r.dev.h[i], r') ∧ r'.dev.busy = false ∧ r'.dev.h = r.dev.h :=
  ⟨_, hostRead_idle gap hb rfl, hb, rfl⟩

/-- On an idle machine `read_digest` answers H. -/
theorem readDigest_idle (gap : Nat → Nat) {r : HostRun} (hb : r.dev.busy = false) :
    ∃ r', readDigest gap r = .ok (r.dev.h, r') := by
  obtain ⟨r1, h0, hb1, hh1⟩ := hostRead_h_idle gap 0 hb
  obtain ⟨r2, h1, hb2, hh2⟩ := hostRead_h_idle gap 1 hb1
  obtain ⟨r3, h2, hb3, hh3⟩ := hostRead_h_idle gap 2 hb2
  obtain ⟨r4, h3, hb4, hh4⟩ := hostRead_h_idle gap 3 hb3
  obtain ⟨r5, h4, -, -⟩ := hostRead_h_idle gap 4 hb4
  refine ⟨r5, ?_⟩
  rw [hh1] at h1 hh2
  rw [hh2] at h2 hh3
  rw [hh3] at h3 hh4
  rw [hh4] at h4
  simp only [readDigest, h0, h1, h2, h3, h4, bind, Except.bind]
  exact congrArg (fun h => Except.ok (h, r5)) (accumulators_eq_words r.dev.h).symm

/-- INIT on an idle machine loads the IV and keeps the rest of what the driver relies on. -/
theorem hostWrite_init {way : WaitBy} (gap : Nat → Nat) {r : HostRun} (hs : Ready way r.dev)
    (hb : r.dev.busy = false) :
    ∃ r', hostWrite gap .ctrl 0x1#32 r = .ok r' ∧ Ready way r'.dev ∧ r'.dev.busy = false ∧ r'.dev.h = iv := by
  have loadedIv := exec_init_idle (r.dev.withPending []) hb
  have hi := exec_write_inv (reg := .ctrl) (w := 0x1#32) hs.inv loadedIv
  exact ⟨_, hostWrite_idle gap hb loadedIv rfl, ⟨hi, hs.noErr, hs.enabled⟩, hb, rfl⟩

/-- CLRSTAT on an idle machine clears the error. -/
theorem hostWrite_clrstat (gap : Nat → Nat) {r : HostRun} (hi : r.dev.Inv) (hb : r.dev.busy = false) :
    ∃ r', hostWrite gap .ctrl 0x4#32 r = .ok r' ∧ r'.dev.Inv ∧ r'.dev.busy = false ∧ r'.dev.err = false ∧
      r'.dev.doneIe = r.dev.doneIe := by
  have cleared := exec_clrstat (r.dev.withPending [])
  have hi' := exec_write_inv (reg := .ctrl) (w := 0x4#32) hi cleared
  exact ⟨_, hostWrite_idle gap hb cleared rfl, hi', hb, rfl, rfl⟩

/-- ABORT makes the machine idle, whatever the turns before it were. -/
theorem hostWrite_abort (gap : Nat → Nat) {r : HostRun} (hi : r.dev.Inv) :
    ∃ r', hostWrite gap .ctrl 0x3#32 r = .ok r' ∧ r'.dev.Inv ∧ r'.dev.busy = false ∧ r'.dev.err = r.dev.err ∧
      r'.dev.doneIe = r.dev.doneIe := by
  have aborted := exec_abort ((r.now gap).withPending [])
  have hi' := exec_write_inv (reg := .ctrl) (w := 0x3#32) (now_inv gap hi) aborted
  exact ⟨_, hostWrite_after_turns gap hi aborted rfl, hi', rfl, afterTurns_err _ _, afterTurns_doneIe _ _⟩

/-- The enables a host that waits on `irq` relies on are written, busy or not. -/
theorem enableIrq_enables (way : WaitBy) (gap : Nat → Nat) {r : HostRun} (hi : r.dev.Inv) :
    ∃ r', enableIrq way gap r = .ok r' ∧ r'.dev.Inv ∧ (way = .irq → r'.dev.doneIe = true) ∧
      r'.dev.err = r.dev.err := by
  cases way with
  | polling => exact ⟨r, rfl, hi, nofun, rfl⟩
  | irq =>
    have enabled := exec_wrIrqen 0x3#32 ((r.now gap).withPending [])
    have hi' := exec_write_inv (reg := .irqen) (w := 0x3#32) (now_inv gap hi) enabled
    exact ⟨_, hostWrite_after_turns gap hi enabled rfl, hi', fun _ => rfl, afterTurns_err _ _⟩

/-- CLRSTAT is written where the STATUS value shows the error, and no error is left. -/
theorem clearError_clears (gap : Nat → Nat) {status : Word} {r : HostRun} (hi : r.dev.Inv) (hb : r.dev.busy = false)
    (hstatus : status[2] = r.dev.err) :
    ∃ r', clearError gap status r = .ok r' ∧ r'.dev.Inv ∧ r'.dev.busy = false ∧ r'.dev.err = false ∧
      r'.dev.doneIe = r.dev.doneIe := by
  cases herr : r.dev.err with
  | false => exact ⟨r, clearError_clear gap (hstatus.trans herr) r, hi, hb, herr, rfl⟩
  | true =>
    obtain ⟨r', hr', hclear⟩ := hostWrite_clrstat gap hi hb
    refine ⟨r', ?_, hclear⟩
    simp [clearError, hstatus, herr, hr']

section Fair

variable {gap : Nat → Nat} {fuels : Filter Nat} [fuels.NeBot]

/-! ### The call -/

/-- The accesses of a call answer the document's digest. -/
theorem hashCall_eventually (fair : ∀ n, ∀ᶠ fuel in fuels, 81 ≤ turnsIn gap n fuel) (form : CallForm) (msg : List Byte)
    {r : HostRun} (hs : Ready form.waitBy r.dev) :
    ∀ᶠ fuel in fuels, hashCall form gap fuel msg r = .ok (renderDigest (docChain iv (messageBlocks msg))) := by
  obtain ⟨r1, hr1, hwait⟩ := waitIdle_eventually fair hs.inv
  obtain ⟨r2, hinit, hs2, hb2, hh2⟩ :=
    hostWrite_init gap (r := r1) (hr1 ▸ ready_waited hs) (hr1 ▸ waited_busy hs.inv)
  obtain ⟨r3, hblocks, hb3, hh3⟩ := hashMessage_eventually fair form (messageBlocks msg) hs2 hb2
  obtain ⟨r4, hread⟩ := readDigest_idle gap hb3
  refine (hwait.and hblocks).mono fun fuel ⟨hwait, hblocks⟩ => ?_
  simp only [hashCall, hwait, hinit, hblocks, hread, hh3, hh2, bind, Except.bind]

/-- A call for a message that fits, with no error recorded (R226). -/
theorem sha1Call_eventually (fair : ∀ n, ∀ᶠ fuel in fuels, 81 ≤ turnsIn gap n fuel) (form : CallForm) {msg : List Byte}
    {s : State} (hi : s.Inv) (hfits : inputTooLarge msg = false) (herr : s.err = false) :
    ∀ᶠ fuel in fuels, sha1Call form gap fuel msg s = .ok (renderDigest (docChain iv (messageBlocks msg))) := by
  obtain ⟨r, henable, hi', hen, herr'⟩ := enableIrq_enables form.waitBy gap (r := ⟨s, 0⟩) hi
  refine (hashCall_eventually fair form msg ⟨hi', herr'.trans herr, hen⟩).mono fun fuel hcall => ?_
  simpa only [sha1Call, hfits, Bool.false_eq_true, if_false, henable, bind, Except.bind] using hcall

/-- By either way of R274, step 3, BUSY is 0 after it, and ERR is still that of the STATUS value it answers. -/
theorem makeIdle_eventually (fair : ∀ n, ∀ᶠ fuel in fuels, 81 ≤ turnsIn gap n fuel) (how : IdleBy) {r : HostRun}
    (hi : r.dev.Inv) :
    ∃ v r', (∀ᶠ fuel in fuels, makeIdle how gap fuel r = .ok (v, r')) ∧ r'.dev.Inv ∧ r'.dev.busy = false ∧
      v[2] = r'.dev.err ∧ r'.dev.doneIe = r.dev.doneIe := by
  cases how with
  | wait =>
    obtain ⟨r', hr', hwait⟩ := waitIdle_eventually fair hi
    refine ⟨_, r', hwait, ?_⟩
    rw [hr']
    exact ⟨waited_inv hi, waited_busy hi, statusWord_err _, (carries_waited _).doneIe⟩
  | abort =>
    have hread := hostRead_after_turns gap hi (reg := .status) rfl
    have hcarries := carries_heard gap r (.value (statusWord (r.now gap)))
    cases hb : (r.now gap).busy with
    | false =>
      refine ⟨statusWord (r.now gap), r.heard gap (.value (statusWord (r.now gap))), .of_forall fun fuel => ?_,
        hcarries.inv hi, hb, statusWord_err _, hcarries.doneIe⟩
      rw [makeIdle, hread]
      simp [bind, Except.bind, hb]
    | true =>
      obtain ⟨r', habort, hi', hb', herr', hen'⟩ := hostWrite_abort gap (hcarries.inv hi)
      refine ⟨statusWord (r.now gap), r', .of_forall fun fuel => ?_, hi', hb', ?_, hen'.trans hcarries.doneIe⟩
      · rw [makeIdle, hread]
        simp [bind, Except.bind, hb, habort]
      · rw [herr', statusWord_err]
        rfl

/-- The boot, with or without an error recorded, ends in what the driver relies on (R274). -/
theorem boot_eventually (fair : ∀ n, ∀ᶠ fuel in fuels, 81 ≤ turnsIn gap n fuel) (way : WaitBy) (how : IdleBy)
    {r : HostRun} (hi : r.dev.Inv) :
    ∃ r', (∀ᶠ fuel in fuels, boot way how gap fuel r = .ok r') ∧ Ready way r'.dev := by
  obtain ⟨r1, henable, hi1, hen1, -⟩ := enableIrq_enables way gap hi
  obtain ⟨v, r2, hidle, hi2, hb2, hstatus, hen2⟩ := makeIdle_eventually fair how hi1
  obtain ⟨r3, hclear, hi3, hb3, herr3, hen3⟩ := clearError_clears gap hi2 hb2 hstatus
  have hs3 : Ready way r3.dev := ⟨hi3, herr3, fun hway => by rw [hen3, hen2, hen1 hway]⟩
  obtain ⟨r', hinit, hs', -⟩ := hostWrite_init gap hs3 hb3
  refine ⟨r', hidle.mono fun fuel hidle => ?_, hs'⟩
  simp only [boot, henable, hidle, hclear, hinit, bind, Except.bind]

/-- A call after the boot for a message that fits (R274, step 6). -/
theorem bootedCall_eventually (fair : ∀ n, ∀ᶠ fuel in fuels, 81 ≤ turnsIn gap n fuel) (how : IdleBy) (form : CallForm)
    {msg : List Byte} {s : State} (hi : s.Inv) (hfits : inputTooLarge msg = false) :
    ∀ᶠ fuel in fuels, bootedCall how form gap fuel msg s = .ok (renderDigest (docChain iv (messageBlocks msg))) := by
  obtain ⟨r, hboot, hs⟩ := boot_eventually fair form.waitBy how (r := ⟨s, 0⟩) hi
  refine (hboot.and (hashCall_eventually fair form msg hs)).mono fun fuel ⟨hboot, hcall⟩ => ?_
  simpa only [bootedCall, hfits, Bool.false_eq_true, if_false, hboot, bind, Except.bind] using hcall

end Fair

/-! ### Weak fairness -/

/-- The turns of more acts are those of the first and of the later ones. -/
theorem turnsIn_add (gap : Nat → Nat) (n a b : Nat) :
    turnsIn gap n (a + b) = turnsIn gap n a + turnsIn gap (n + a) b := by
  induction a generalizing n with
  | zero => rw [Nat.zero_add, turnsIn_zero, Nat.zero_add, Nat.add_zero]
  | succ a ih =>
    rw [Nat.succ_add, turnsIn_succ, turnsIn_succ, ih, show n + 1 + a = n + (a + 1) by omega]
    omega

/-- Where the engine always gets a turn again, it gets any number of them. -/
theorem turnsIn_unbounded {gap : Nat → Nat} (again : ∀ n, ∃ k, n ≤ k ∧ 1 ≤ gap k) (turns n : Nat) :
    ∀ᶠ fuel in Filter.atTop, turns ≤ turnsIn gap n fuel := by
  rw [Filter.eventually_atTop]
  induction turns generalizing n with
  | zero => exact ⟨0, fun _ _ => Nat.zero_le _⟩
  | succ turns ih =>
    obtain ⟨k, hk, hgap⟩ := again n
    obtain ⟨enough, henough⟩ := ih (k + 1)
    refine ⟨k - n + 1 + enough, fun fuel hfuel => ?_⟩
    obtain ⟨later, rfl⟩ := Nat.exists_eq_add_of_le (Nat.le_of_add_right_le hfuel)
    have hlater := henough later (Nat.le_of_add_le_add_left hfuel)
    rw [turnsIn_add, turnsIn_add, turnsIn_succ, turnsIn_zero, show n + (k - n) = k by omega,
      show n + (k - n + 1) = k + 1 by omega]
    omega

end Sys2Proof.Machine

namespace Sys2Proof
open Machine

/-- A message fits where its bit length does (R223). -/
theorem inputTooLarge_eq_false {msg : List Byte} (h : 8 * msg.length < 2 ^ 64) : inputTooLarge msg = false :=
  decide_eq_false (Nat.not_le.mpr h)

/-- Settles O59: the one fuel given is enough for every wait. -/
theorem driverComputesDigest : Obligations.DriverComputesDigest := by
  intro form gap fuel msg s hi hturns digest
  have fair : ∀ n, ∀ᶠ fuel in pure fuel, 81 ≤ turnsIn gap n fuel := fun n => Filter.eventually_pure.mpr (hturns n)
  refine ⟨fun hlarge => ?_, fun hfits => ⟨fun herr => ?_, fun how => ?_⟩⟩
  · have htoo : inputTooLarge msg = true := decide_eq_true hlarge
    exact ⟨by simp [sha1Call, htoo], fun how => by simp [bootedCall, htoo]⟩
  · exact Filter.eventually_pure.mp (sha1Call_eventually fair form hi (inputTooLarge_eq_false hfits) herr)
  · exact Filter.eventually_pure.mp (bootedCall_eventually fair how form hi (inputTooLarge_eq_false hfits))

/-- Settles O60: every fuel from some point on is enough for every wait. -/
theorem driverEndsUnderFairness : Obligations.DriverEndsUnderFairness := by
  intro form gap msg s hi again hfits digest
  have fair := turnsIn_unbounded again 81
  have large := inputTooLarge_eq_false hfits
  have booted : ∀ᶠ fuel in Filter.atTop, ∀ how, bootedCall how form gap fuel msg s = .ok digest :=
    ((bootedCall_eventually fair .wait form hi large).and (bootedCall_eventually fair .abort form hi large)).mono
      fun fuel ⟨hwait, habort⟩ how => by cases how with
        | wait => exact hwait
        | abort => exact habort
  refine Filter.eventually_atTop.mp ?_
  by_cases herr : s.err = false
  · exact ((sha1Call_eventually fair form hi large herr).and booted).mono fun fuel ⟨hcall, hbooted⟩ =>
      ⟨fun _ => hcall, hbooted⟩
  · exact booted.mono fun fuel hbooted => ⟨fun h => absurd h herr, hbooted⟩

end Sys2Proof
end
